-- ==== Sys2Proof/Word.lean ====
section
/-! DEFINITION. The words of the block: bytes and line levels (00_scope.md, Notation). -/

namespace Sys2Proof

/-- A duration, a frame byte or an 8-bit host register. -/
abbrev Byte := BitVec 8

/-- A line level: `true` is high, `false` is low (00_scope.md, "Levels"). -/
abbrev Level := Bool

/-- The level low, 0. -/
@[simp] abbrev Level.low : Level := false

/-- The level high, 1. -/
@[simp] abbrev Level.high : Level := true

end Sys2Proof
end

