-- ==== Sys2Proof/Config.lean ====
section
/-! DEFINITION. What an instance fixes (R5, R22, R23, R28) and the free values of the model: constants with no
body, so that nothing can be proved of the value they take. -/

namespace Sys2Proof

/-- R22: the variant tag, `LOWRES = 0`, `HIRES = 1`. The set is closed at two members (R107). -/
inductive Variant where
  | lowres
  | hires
deriving DecidableEq, Repr, Inhabited

/-- R5, R115: `CALLSITE_SENSE`, the sense of the sampler's argument at its call sites. -/
inductive Sense where
  | timed
  | awaited
deriving DecidableEq, Repr, Inhabited

/-- R60: one pulse, the pair of tick counts `(LOW, HIGH)` of one transmitted bit. -/
structure Pulse where
  low  : Byte
  high : Byte
deriving DecidableEq, Repr, Inhabited

/-- What the line environment answers to one pin operation (R6, R95; the ports `pin_fault`, `pin_fault_code` and
`pin_level` of R168). A set looks at `fault` and `took`, a read at `fault` and `level`. -/
structure PinIn where
  /-- `some e`: the operation failed with the collaborator's error value `e`; `none`: it succeeded. -/
  fault : Option Nat
  /-- The level a read that succeeds observes. -/
  level : Level
  /-- After a set that FAILED: whether the commanded level was nevertheless taken (R90, R91: "a model draws it"). -/
  took  : Bool
deriving DecidableEq, Repr, Inhabited

/-- R28, R169: the constants of one instance, given at construction and never written. -/
structure Settings where
  /-- `VARIANT` (R22). -/
  variant          : Variant
  /-- `START_DELAY_US[LOWRES]` (R5, R100). -/
  startDelayLowres : BitVec 16
  /-- `START_DELAY_US[HIRES]` (R5, R100). -/
  startDelayHires  : BitVec 16
  /-- `IOERR_W`, the width of the opaque error value (R5, R21). -/
  ioerrW           : Nat
  /-- `CALLSITE_SENSE` (R5, R115). -/
  sense            : Sense
deriving DecidableEq, Repr, Inhabited

/-- The physical quantities the accessors return (R180 to R182). -/
inductive Quantity where
  | temperatureCelsius
  | temperatureFahrenheit
  | humidityPercent
deriving DecidableEq, Repr, Inhabited

/-- OPEN (R5, 92 D11): the variant an instance is built for. Log 1. -/
opaque Config.variant : Variant

/-- OPEN (R5, R100, 92 D12): `START_DELAY_US`, any unsigned 16-bit value for each variant. Log 1. -/
opaque Config.startDelayUs : Variant → BitVec 16

/-- OPEN (R5, R21, 92 D20): `IOERR_W`. Log 1. -/
opaque Config.ioerrW : Nat

/-- FREE VALUE (R6, 93 U2, U4): the answer to a pin operation that the script `State.pins` does not give. Log 4. -/
opaque Config.freePin : Nat → PinIn

/-- FREE VALUE (R30, R230, 93 U8): the contents of `PULSE` after an asserted reset. Log 9. -/
opaque Config.freePulses : Nat → Vector Pulse 40

/-- FREE VALUE (R30, R230, 93 U8): the contents of `BYTE` after an asserted reset. Log 9. -/
opaque Config.freeBytes : Nat → Vector Byte 5

/-- OPEN (R106, 92 D21): `F32_EVAL`, the binary32 rendering of a quantity, as the 32 bits of the number, from the
variant and the two data bytes. Log 15. -/
opaque Config.f32Eval : Variant → Quantity → Byte → Byte → BitVec 32

/-- OPEN (93 U7, 91 N17): whether `F32_EVAL` keeps the sign of the negated zero of `HIRES` `(0x80, 0x00)`. Log 15. -/
opaque Config.f32KeepsZeroSign : Bool

/-- The constants of the instance that `State.reset` describes. `CALLSITE_SENSE` is `timed`, the spec's value
(R5, R115, 92 D7; log 3); the others are open (log 1). -/
def Config.settings : Settings where
  variant          := Config.variant
  startDelayLowres := Config.startDelayUs .lowres
  startDelayHires  := Config.startDelayUs .hires
  ioerrW           := Config.ioerrW
  sense            := .timed

end Sys2Proof
end

