-- ==== Sys2Proof/Syntax.lean ====
section
/-! DEFINITION. The operations that have an encoding (R69; spec/opcode_table.json): one constructor per row. -/

namespace Sys2Proof

/-- The host command and the eleven sequencer words. -/
inductive Instr where
  /-- `READ` (R160): start a read transaction. -/
  | read
  /-- `IDLE` (R161): wait for `READ`. -/
  | idle
  /-- `H1_SET` (R121): `SETH`. -/
  | h1Set
  /-- `H1_HOLD` (R122): `DLYMS 1`. -/
  | h1Hold
  /-- `H2_SET` (R123): `SETL`. -/
  | h2Set
  /-- `H2_HOLD` (R124): `DLYUS SDLY`. -/
  | h2Hold
  /-- `H3_SET` (R125): `SETH`. -/
  | h3Set
  /-- `H3_HOLD` (R126): `DLYUS 40`. -/
  | h3Hold
  /-- `ACK_LOW` (R127): `TLVL low`, count discarded. -/
  | ackLow
  /-- `ACK_HIGH` (R128): `TLVL high`, count discarded. -/
  | ackHigh
  /-- `SAMPLE` (R137): `TLVL h`, count stored to `PULSE[i]`, half `h` (`false` is `LOW`, `true` is `HIGH`). -/
  | sample (i : BitVec 6) (h : Level)
  /-- `DECODE` (R152): the frame decoder. -/
  | decode
deriving DecidableEq, Repr

/-- The two formats of R69: an 8-bit value written to `CMD` (R65), or an 11-bit sequencer word (R66). -/
inductive CodeWord where
  | cmd (v : BitVec 8)
  | seq (w : BitVec 11)
deriving DecidableEq, Repr

/-- Why a word stands for no operation (R70). -/
inductive Reserved where
  /-- A `CMD` value other than 0x01. -/
  | command (v : BitVec 8)
  /-- A `PHASE` code 0xB to 0xF. -/
  | phase (p : BitVec 4)
  /-- `IDX` 80 to 127 in `SAMPLE`. -/
  | indexRange (n : BitVec 7)
  /-- A nonzero `IDX` field outside `SAMPLE`. -/
  | indexOutsideSample (n : BitVec 7)
  /-- Bytes that are neither a one-byte command nor an 11-bit word laid out in two bytes. -/
  | layout
deriving DecidableEq, Repr

/-- What the decoder answers. -/
inductive Decoded where
  | instr (i : Instr)
  | reserved (why : Reserved)
deriving DecidableEq, Repr

end Sys2Proof
end

