-- ==== Sys2Proof/WellFormed.lean ====
section
/-! DEFINITION. Which operations the encoding admits. -/

namespace Sys2Proof

/-- R70, R14: the pulse index of `SAMPLE` is 0..39 (so that `IDX = i : h` is 0..79). Nothing else has an operand. -/
def Instr.wellFormed : Instr → Bool
  | .read => true
  | .idle => true
  | .h1Set => true
  | .h1Hold => true
  | .h2Set => true
  | .h2Hold => true
  | .h3Set => true
  | .h3Hold => true
  | .ackLow => true
  | .ackHigh => true
  | .sample i _ => decide (i.toNat < 40)
  | .decode => true

end Sys2Proof
end

