-- ==== Sys2Proof/Decode.lean ====
section
/-! DEFINITION. The `PHASE` codes (R13), the decoder of command and sequencer words (R65, R66, R69, R70), its byte
form, and the encoder. -/

namespace Sys2Proof

/-! R13: the `PHASE` codes. -/

@[simp] abbrev Phase.idle    : BitVec 4 := 0x0#4
@[simp] abbrev Phase.h1Set   : BitVec 4 := 0x1#4
@[simp] abbrev Phase.h1Hold  : BitVec 4 := 0x2#4
@[simp] abbrev Phase.h2Set   : BitVec 4 := 0x3#4
@[simp] abbrev Phase.h2Hold  : BitVec 4 := 0x4#4
@[simp] abbrev Phase.h3Set   : BitVec 4 := 0x5#4
@[simp] abbrev Phase.h3Hold  : BitVec 4 := 0x6#4
@[simp] abbrev Phase.ackLow  : BitVec 4 := 0x7#4
@[simp] abbrev Phase.ackHigh : BitVec 4 := 0x8#4
@[simp] abbrev Phase.sample  : BitVec 4 := 0x9#4
@[simp] abbrev Phase.decode  : BitVec 4 := 0xA#4

/-- R65: the value of `CMD` that is the `READ` command. -/
@[simp] abbrev cmdRead : BitVec 8 := 0x01#8

/-- R69: the operation of a phase that has no operand; `SAMPLE` and the reserved codes have none. -/
def plainPhase (p : BitVec 4) : Option Instr :=
  if p = Phase.idle then some .idle
  else if p = Phase.h1Set then some .h1Set
  else if p = Phase.h1Hold then some .h1Hold
  else if p = Phase.h2Set then some .h2Set
  else if p = Phase.h2Hold then some .h2Hold
  else if p = Phase.h3Set then some .h3Set
  else if p = Phase.h3Hold then some .h3Hold
  else if p = Phase.ackLow then some .ackLow
  else if p = Phase.ackHigh then some .ackHigh
  else if p = Phase.decode then some .decode
  else none

/-- R66: bits 10:7 of a sequencer word. -/
def seqPhase (w : BitVec 11) : BitVec 4 := w.extractLsb' 7 4

/-- R66: bits 6:0 of a sequencer word, `i : h`. -/
def seqIndex (w : BitVec 11) : BitVec 7 := w.extractLsb' 0 7

/-- R14: `IDX[6:1]`, the pulse index. -/
def idxPulse (n : BitVec 7) : BitVec 6 := n.extractLsb' 1 6

/-- R14: `IDX[0]`, the half. -/
def idxHalf (n : BitVec 7) : Level := n.getLsbD 0

/-- `IDX = i : h`. -/
def idxOf (i : BitVec 6) (h : Level) : BitVec 7 := i ++ BitVec.ofBool h

/-- R66, R69, R70: the operation of a sequencer word. -/
def decodeSeq (w : BitVec 11) : Decoded :=
  if seqPhase w = Phase.sample then
    if (seqIndex w).toNat < 80 then .instr (.sample (idxPulse (seqIndex w)) (idxHalf (seqIndex w)))
    else .reserved (.indexRange (seqIndex w))
  else
    match plainPhase (seqPhase w) with
    | none => .reserved (.phase (seqPhase w))
    | some i => if seqIndex w = 0#7 then .instr i else .reserved (.indexOutsideSample (seqIndex w))

/-- R65, R70: the operation of a value written to `CMD`. -/
def decodeCmd (v : BitVec 8) : Decoded :=
  if v = cmdRead then .instr .read else .reserved (.command v)

/-- The decoder, total on both formats. -/
def decodeWord : CodeWord → Decoded
  | .cmd v => decodeCmd v
  | .seq w => decodeSeq w

/-- The layout of a word in bytes (log 14: the hardware stores no words): a command is one byte; a sequencer word
is two bytes, bits 7:0 first, and the five bits above bit 10 are 0. -/
def wordOfBytes : List Byte → Option CodeWord
  | [v] => some (.cmd v)
  | [lo, hi] => if hi.toNat < 8 then some (.seq (hi.extractLsb' 0 3 ++ lo)) else none
  | _ => none

/-- The decoder on bytes, total. -/
def decodeBytes (bs : List Byte) : Decoded :=
  match wordOfBytes bs with
  | some w => decodeWord w
  | none => .reserved .layout

/-- The bytes of a word whose bits are `w`, numbered as spec/opcode_table.json numbers them: one byte for a row of
at most 8 bits, two for a longer one; none where `w` has a bit outside them. -/
def tableBytes (nbits w : Nat) : List Byte :=
  if nbits ≤ 8 then
    if w < 256 then [BitVec.ofNat 8 w] else []
  else
    if w < 65536 then [BitVec.ofNat 8 w, BitVec.ofNat 8 (w / 256)] else []

/-- The operation the decoder reads from a row's word. -/
def decodeTableWord (nbits w : Nat) : Option Instr :=
  match decodeBytes (tableBytes nbits w) with
  | .instr i => some i
  | .reserved _ => none

/-- R69: the sequencer word of a phase, with its index field. -/
def seqOf (p : BitVec 4) (n : BitVec 7) : CodeWord := .seq (p ++ n)

/-- R69: the word of an operation. -/
def encode : Instr → CodeWord
  | .read => .cmd cmdRead
  | .idle => seqOf Phase.idle 0#7
  | .h1Set => seqOf Phase.h1Set 0#7
  | .h1Hold => seqOf Phase.h1Hold 0#7
  | .h2Set => seqOf Phase.h2Set 0#7
  | .h2Hold => seqOf Phase.h2Hold 0#7
  | .h3Set => seqOf Phase.h3Set 0#7
  | .h3Hold => seqOf Phase.h3Hold 0#7
  | .ackLow => seqOf Phase.ackLow 0#7
  | .ackHigh => seqOf Phase.ackHigh 0#7
  | .sample i h => seqOf Phase.sample (idxOf i h)
  | .decode => seqOf Phase.decode 0#7

/-- The bytes of a word. -/
def bytesOfWord : CodeWord → List Byte
  | .cmd v => [v]
  | .seq w => [w.extractLsb' 0 8, (w.extractLsb' 8 3).setWidth 8]

/-- The bytes of an operation. -/
def encodeBytes (i : Instr) : List Byte := bytesOfWord (encode i)

end Sys2Proof
end

