-- ==== Sys2Proof/Machine/State.lean ====
section
/-! DEFINITION. The state of one receiver (10_state.md R10), the inputs it is given and the calls it makes, the
reasons a step can stop, and the state after reset (R30). -/

namespace Sys2Proof.Machine

/-- R15: the sub-state of a running sampler invocation, `POLL = 0`, `WAIT = 1`. -/
inductive Sub where
  | poll
  | wait
deriving DecidableEq, Repr

/-- The calls on the two collaborators (R90 to R94), as the block makes them. -/
inductive Primitive where
  | pinSetHigh
  | pinSetLow
  | pinRead
  | delayUs (n : BitVec 16)
  | delayMs (n : BitVec 16)
deriving DecidableEq, Repr

/-- What the host does before the receiver's next step (R26, R33, R231; log 6). -/
inductive HostOp where
  /-- Nothing: the receiver steps. -/
  | quiet
  /-- The host writes `v` to host register `r`. -/
  | write (r : BitVec 4) (v : BitVec 8)
  /-- The host reads host register `r`. -/
  | read (r : BitVec 4)
  /-- `rst` is asserted (R230). -/
  | rst
deriving DecidableEq, Repr

/-- R64, R200: the three errors a `READ` can end with, each with its payload. -/
inductive ReadError where
  | io (e : Nat)
  | timeout
  | checksum (expected actual : Byte)
deriving DecidableEq, Repr

/-- R63: a Reading, the four data bytes tagged with the variant. -/
structure Reading where
  data    : Vector Byte 4
  variant : Variant
deriving DecidableEq, Repr

/-- R7, R165: what `read()` returns. -/
inductive ReadResult where
  | reading (r : Reading)
  | error (x : ReadError)
deriving DecidableEq, Repr

/-- The machine. The first field holds the instance's constants; the fields from `pins` on are the model's own
(log 4, 6, 10, 16); the rest is R10's table. `BUSY`, `SDLY`, `STATUS` and `CFG` are computed from these fields. -/
structure State where
  /-- The constants of the instance (R22, R23, R28). -/
  cfg   : Settings
  /-- `PHASE` (R13). -/
  phase : BitVec 4
  /-- `IDX` (R14). -/
  idx   : BitVec 7
  /-- `SUB` (R15). -/
  sub   : Sub
  /-- `CNT` (R11). -/
  cnt   : Byte
  /-- `DRV` (R12): `true` is 1, the line commanded high (released). -/
  drv   : Bool
  /-- `PULSE[0..39]` (R16). -/
  pulse : Vector Pulse 40
  /-- `BYTE[0..4]` (R17). -/
  byte  : Vector Byte 5
  /-- `DATA[0..3]` (R19). -/
  data  : Vector Byte 4
  /-- `RVAR` (R24, R27). -/
  rvar  : Variant
  /-- `CKEXP` (R18). -/
  ckexp : Byte
  /-- `CKACT` (R18). -/
  ckact : Byte
  /-- `IOERR` (R21), a number below `2 ^ IOERR_W` (log 13). -/
  ioerr : Nat
  /-- `DONE` (R24). -/
  done  : Bool
  /-- `OK` (R24). -/
  ok    : Bool
  /-- `ECODE` (R24). -/
  ecode : BitVec 2
  /-- The answers of the line environment to come, in order (log 4). -/
  pins  : List PinIn
  /-- What the host does before the receiver's next steps, in order (log 6). -/
  host  : List HostOp
  /-- The counter the free values are applied to (log 4). -/
  draws : Nat
  /-- The calls made since the last acceptance, newest first (log 10). -/
  trace : List Primitive
  /-- The value of the host's last register read (log 16). -/
  rdata : Nat
deriving DecidableEq, Repr

/-- Why the machine stops. -/
inductive Fault where
  /-- Raised by the fetch in a state whose position is reserved (`PHASE` 0xB to 0xF, `IDX` 80 to 127, or `IDX` not 0
  outside `SAMPLE` where no rule leaves it there), and by `SAMPLE` with a pulse index above 39. R70: "a state with such a code is stuck". Safe: no run
  reaches such a state (log 8). -/
  | stuckSequencer (why : Reserved)
deriving DecidableEq, Repr

/-- Why an instruction has no meaning. -/
inductive Refusal where
  /-- Raised by an arm of `exec` that has no meaning yet; no arm of this model raises it. Safe. -/
  | notModelled (mnemonic : String)
deriving DecidableEq, Repr

/-- R30: the state after reset. `PULSE` and `BYTE`, which R30 leaves unspecified, are zero here (DESIGN CHOICE, log
9). The inputs and the records are empty (log 4, 6, 10, 16). -/
def State.reset : State where
  cfg   := Config.settings
  phase := Phase.idle
  idx   := 0#7
  sub   := .poll
  cnt   := 0#8
  drv   := true
  pulse := Vector.replicate 40 ⟨0#8, 0#8⟩
  byte  := Vector.replicate 5 0#8
  data  := Vector.replicate 4 0#8
  rvar  := .lowres
  ckexp := 0#8
  ckact := 0#8
  ioerr := 0
  done  := false
  ok    := false
  ecode := 0#2
  pins  := []
  host  := []
  draws := 0
  trace := []
  rdata := 0

end Sys2Proof.Machine
end

