-- ==== Sys2Proof/Machine/Flags.lean ====
section
/-! DEFINITION. The status flags and the words the host reads them in (R24, R26, R27), and the result they stand for
(R63 to R65, R165). No flag is written as a side effect of arithmetic (R27). -/

namespace Sys2Proof.Machine

/-! R24, R64: the values of `ECODE`. -/

@[simp] abbrev Ecode.none     : BitVec 2 := 0#2
@[simp] abbrev Ecode.io       : BitVec 2 := 1#2
@[simp] abbrev Ecode.timeout  : BitVec 2 := 2#2
@[simp] abbrev Ecode.checksum : BitVec 2 := 3#2

/-- R24: `BUSY` is 1 while `PHASE` is not `IDLE`. -/
def State.busy (s : State) : Bool := s.phase != Phase.idle

/-- R22: the tag's bit. -/
def variantBit : Variant → Bool
  | .lowres => false
  | .hires => true

/-- R24: `STATUS`, from bit 7 down: two reserved zeros, `RVAR`, `ECODE`, `OK`, `DONE`, `BUSY`. -/
def State.status (s : State) : BitVec 8 :=
  0#2 ++ BitVec.ofBool (variantBit s.rvar) ++ s.ecode ++ BitVec.ofBool s.ok ++ BitVec.ofBool s.done
    ++ BitVec.ofBool s.busy

/-- R26: `CFG`, bit 0 is `VARIANT`, bits 7:1 read as 0. -/
def State.configWord (s : State) : BitVec 8 := 0#7 ++ BitVec.ofBool (variantBit s.cfg.variant)

/-- R24, R64: the code of an error kind. -/
def ReadError.code : ReadError → BitVec 2
  | .io _ => Ecode.io
  | .timeout => Ecode.timeout
  | .checksum _ _ => Ecode.checksum

/-- R63, R165: the Reading the registers hold, meaningful when `OK = 1`. -/
def State.reading (s : State) : Reading := ⟨s.data, s.rvar⟩

/-- R64, R165: the Error the registers hold, none when `ECODE = 0`. -/
def State.error (s : State) : Option ReadError :=
  if s.ecode = Ecode.io then some (.io s.ioerr)
  else if s.ecode = Ecode.timeout then some .timeout
  else if s.ecode = Ecode.checksum then some (.checksum s.ckexp s.ckact)
  else none

/-- R9, R166: a `READ` has ended. -/
def State.ended (s : State) : Prop := s.phase = Phase.idle ∧ s.done = true

/-- R165: what `read()` has returned, once `DONE = 1`. -/
def State.result (s : State) : Option ReadResult :=
  if s.done then
    if s.ok then some (.reading s.reading) else s.error.map .error
  else none

end Sys2Proof.Machine
end

