-- ==== Sys2Proof/Machine/Operands.lean ====
section
/-! DEFINITION. The constants (R4) and operands (R67) of the micro-operations, and the indexed accesses to the frame
buffer (R40, R47). -/

namespace Sys2Proof.Machine

/-- R4, R67: the millisecond operand of `H1_HOLD`, `SETTLE_MS`. -/
def settleMs : BitVec 16 := 1#16

/-- R4, R67: the microsecond operand of `H3_HOLD`, `RELEASE_US`. -/
def releaseUs : BitVec 16 := 40#16

/-- R4, R67: the microsecond operand of one tick, `POLL_US`. -/
def pollUs : BitVec 16 := 1#16

/-- R4, R111: the largest count of one invocation, `MAX_TICKS`. -/
def maxTicks : Byte := 255#8

/-- R14: the last sampling invocation, `N_SAMPLES - 1`. -/
def lastIdx : BitVec 7 := 79#7

/-- R5: microseconds in a millisecond, `US_PER_MS` (PRESUMED in the spec, 93 G2; log 17). -/
def usPerMs : Nat := 1000

/-- R100: `start_delay_us(VARIANT) = START_DELAY_US[VARIANT]`. -/
def startDelayUs (c : Settings) : Variant → BitVec 16
  | .lowres => c.startDelayLowres
  | .hires => c.startDelayHires

/-- R23: `SDLY`. -/
def State.sdly (s : State) : BitVec 16 := startDelayUs s.cfg s.cfg.variant

/-- R67 (last row), R115: the level that ends the count of `TLVL L`. -/
def expectedLevel (c : Sense) (l : Level) : Level :=
  match c with
  | .timed => !l
  | .awaited => l

/-- R66: the index field of the sequencer word. It is `IDX`; but `IDX` keeps what the sampling loop left in it where the
rules leave it alone, 79 in `DECODE` (R137, R163) and 0..79 in `IDLE` (R207), and the field of those words is 0 (R66;
log 7). Any other `IDX` that is not 0 outside `SAMPLE` gives a reserved word (R70, 93 U14). -/
def State.indexField (s : State) : BitVec 7 :=
  if (s.phase = Phase.idle ∧ s.idx.toNat < 80) ∨ (s.phase = Phase.decode ∧ s.idx = lastIdx) then 0#7 else s.idx

/-- R66, R67: the sequencer word `PHASE : IDX`. -/
def State.seqWord (s : State) : BitVec 11 := s.phase ++ s.indexField

/-- R137: the pulse with one half replaced, `LOW` for `h = 0`, `HIGH` for `h = 1`. -/
def setHalf (p : Pulse) (h : Level) (c : Byte) : Pulse :=
  if h then { p with high := c } else { p with low := c }

/-- R137: `PULSE[i]` half `h` replaced; nothing for an index that does not exist. -/
def storeHalf (ps : Vector Pulse 40) (i : BitVec 6) (h : Level) (c : Byte) : Vector Pulse 40 :=
  if hi : i.toNat < 40 then ps.set i.toNat (setHalf ps[i.toNat] h c) else ps

/-- R60: the record of one pulse as a 16-bit word, `LOW : HIGH` (never visible). -/
def pulseWord (p : Pulse) : BitVec 16 := p.low ++ p.high

end Sys2Proof.Machine
end

