-- ==== Sys2Proof/Machine/Ops.lean ====
section
/-! DEFINITION. The shared operations: drawing an answer, the five collaborator primitives (R90 to R94), raising an
error (R206), entering an invocation (R116, R163), accepting a `READ` (R164), and reset (R230). -/

namespace Sys2Proof.Machine

/-! ### Answers of the line environment -/

/-- The error value as the port carries it, `IOERR_W` bits wide (R168; log 13). -/
def clipFault (w : Nat) (p : PinIn) : PinIn := { p with fault := p.fault.map (· % 2 ^ w) }

/-- The answer the next pin operation gets: the script's next, or a free value where the script has ended (R6; log
4). -/
def pinAnswer (s : State) : PinIn :=
  clipFault s.cfg.ioerrW (s.pins.head?.getD (Config.freePin s.draws))

/-- That answer is used up. -/
def popPin (s : State) : State :=
  { s with pins := s.pins.tail, draws := if s.pins.isEmpty then s.draws + 1 else s.draws }

/-- A call on a collaborator is made (R51: calls are made in program order, none merged or dropped). -/
def recordCall (c : Primitive) (s : State) : State := { s with trace := c :: s.trace }

/-- The ghost time one call makes pass (R93, R94, R96). -/
def Primitive.us : Primitive → Nat
  | .pinSetHigh => 0
  | .pinSetLow => 0
  | .pinRead => 0
  | .delayUs n => n.toNat
  | .delayMs n => usPerMs * n.toNat

/-- The ghost time of a list of calls. -/
def traceUs : List Primitive → Nat
  | [] => 0
  | c :: cs => c.us + traceUs cs

/-- The ghost counter `T` (00_scope.md, Notation): 0 at acceptance, advanced by the delays requested since. -/
def State.time (s : State) : Nat := traceUs s.trace

/-! ### Raising an error, and the end of a `READ` -/

/-- R164, R206: the end of a `READ`. `BUSY` falls with `PHASE` (R24). -/
def endRead (s : State) : State := { s with phase := Phase.idle, done := true }

/-- R206: the registers an error is recorded in. -/
def recordError (x : ReadError) (s : State) : State :=
  match x with
  | .io e => { s with ecode := Ecode.io, ioerr := e }
  | .timeout => { s with ecode := Ecode.timeout }
  | .checksum expected actual => { s with ecode := Ecode.checksum, ckexp := expected, ckact := actual }

/-- R206, R207: `raise X`: the error is recorded and the `READ` ends. There is no handler, no saved position and no
clean-up; there is no return either (R209): the next accepted `READ` (`acceptRead`) clears the error. -/
def raise (x : ReadError) (s : State) : State := endRead (recordError x s)

/-! ### The sequencer position -/

/-- R163: the next phase. -/
def goto (p : BitVec 4) (s : State) : State := { s with phase := p }

/-- R116, R163: entry into a sampler phase sets `CNT` to 0 and `SUB` to `POLL`. -/
def enterInvocation (p : BitVec 4) (s : State) : State := { s with phase := p, cnt := 0#8, sub := .poll }

/-- R128, R163: entry into `SAMPLE` from `ACK_HIGH` also sets `IDX` to 0. -/
def enterSampling (s : State) : State := enterInvocation Phase.sample { s with idx := 0#7 }

/-- R137, R163: after the invocation with index `n` has returned in `SAMPLE`. -/
def advanceSample (n : BitVec 7) (s : State) : State :=
  if n = lastIdx then goto Phase.decode s
  else enterInvocation Phase.sample { s with idx := n + 1#7 }

/-- R164: the step that accepts a `READ`. The record of calls starts anew, since `T` starts at 0 here (log 10). -/
def acceptRead (s : State) : State :=
  { s with
    done := false, ok := false, ecode := Ecode.none, rvar := .lowres, data := Vector.replicate 4 0#8,
    ckexp := 0#8, ckact := 0#8, ioerr := 0, phase := Phase.h1Set, idx := 0#7, cnt := 0#8, sub := .poll,
    trace := [] }

/-! ### The primitives -/

/-- R90, R91: a set of the pin to level `l`, then `next` if the collaborator answered `ok`. On `IoFault` the level
`DRV` is left at is drawn between the old and the commanded one (log 5). -/
def setPin (l : Level) (next : State → State) (s : State) : State :=
  let t := recordCall (if l then .pinSetHigh else .pinSetLow) (popPin s)
  match (pinAnswer s).fault with
  | some e => raise (.io e) { t with drv := if (pinAnswer s).took then l else s.drv }
  | none => next { t with drv := l }

/-- R90: `SETH`. -/
def seth (next : State → State) (s : State) : State := setPin Level.high next s

/-- R91: `SETL`. -/
def setl (next : State → State) (s : State) : State := setPin Level.low next s

/-- R92: `RDLV`: one read of the pin; the level goes to `next`. -/
def rdlv (next : Level → State → State) (s : State) : State :=
  let t := recordCall .pinRead (popPin s)
  match (pinAnswer s).fault with
  | some e => raise (.io e) t
  | none => next (pinAnswer s).level t

/-- R93: `DLYUS n`. -/
def dlyus (n : BitVec 16) (s : State) : State := recordCall (.delayUs n) s

/-- R94: `DLYMS n`. -/
def dlyms (n : BitVec 16) (s : State) : State := recordCall (.delayMs n) s

/-! ### Reset -/

/-- R230, R231: `rst` in any state. The constants and the inputs stay; `PULSE` and `BYTE`, which R30 leaves
unspecified, take free values (log 9). -/
def assertReset (s : State) : State :=
  { State.reset with
    cfg := s.cfg, pulse := Config.freePulses s.draws, byte := Config.freeBytes s.draws, pins := s.pins,
    host := s.host, draws := s.draws + 1, rdata := s.rdata }

end Sys2Proof.Machine
end

