-- ==== Sys2Proof/Machine/Command.lean ====
section
/-! DEFINITION. The `READ` command and the `IDLE` word (46_read_sequencer.md). -/

namespace Sys2Proof.Machine

/-- R160, R161, R164: `READ` is accepted in `IDLE`; while `BUSY = 1` the write has no effect. -/
def execRead (s : State) : Host.Outcome State Fault Refusal :=
  .next (if s.phase = Phase.idle then acceptRead s else s)

/-- R161: in `IDLE` the block performs no primitive and changes no state. -/
def execIdle (s : State) : Host.Outcome State Fault Refusal := .next s

end Sys2Proof.Machine
end

