-- ==== Sys2Proof/Machine/Decoder.lean ====
section
/-! DEFINITION. The frame decoder (45_frame_decoder.md): comparator, byte assembler, checksum validator. -/

namespace Sys2Proof.Machine

/-- R146: the comparator, strict and unsigned. -/
def pulseBit (p : Pulse) : Bool := decide (p.low.toNat < p.high.toNat)

/-- R148: one step of the byte assembler, `((b << 1) | bit) & 0xFF`. -/
def shiftIn (b : Byte) (bit : Bool) : Byte := (b <<< 1) ||| (BitVec.ofBool bit).setWidth 8

/-- R148: a byte from its pulses, first pulse first, starting from 0. -/
def assembleByte (ps : List Pulse) : Byte := ps.foldl (fun b p => shiftIn b (pulseBit p)) 0#8

/-- R46: the 8 consecutive pulses of frame byte `j`. -/
def pulsesOfByte (ps : Vector Pulse 40) (j : Nat) : List Pulse := (ps.toList.drop (8 * j)).take 8

/-- R148: the five bytes of a frame. -/
def assemble (ps : Vector Pulse 40) : Vector Byte 5 :=
  #v[assembleByte (pulsesOfByte ps 0), assembleByte (pulsesOfByte ps 1), assembleByte (pulsesOfByte ps 2),
     assembleByte (pulsesOfByte ps 3), assembleByte (pulsesOfByte ps 4)]

/-- R61: the frame as one 40-bit word, byte 0 in the top bits; bit 39 is the first to arrive. -/
def frameWord (b : Vector Byte 5) : BitVec 40 := b[0] ++ b[1] ++ b[2] ++ b[3] ++ b[4]

/-- R149: `expected`, the low byte of the exact sum of the first four byte values. -/
def expectedChecksum (b : Vector Byte 5) : Byte :=
  BitVec.ofNat 8 (b[0].toNat + b[1].toNat + b[2].toNat + b[3].toNat)

/-- R149: `actual`, the transmitted fifth byte. -/
def actualChecksum (b : Vector Byte 5) : Byte := b[4]

/-- R151: the first four bytes. -/
def dataBytes (b : Vector Byte 5) : Vector Byte 4 := #v[b[0], b[1], b[2], b[3]]

/-- R151: the Reading is published; `BYTE[4]` is not part of it. R16 and U8 leave the contents of `PULSE` and `BYTE`
unspecified from here on; that they stay as they are is the model's choice (DESIGN CHOICE, log 19). -/
def publish (s : State) : State :=
  endRead { s with data := dataBytes s.byte, rvar := s.cfg.variant, ok := true }

/-- R150, R151: the checksum comparison of the assembled bytes. -/
def judgeFrame (s : State) : State :=
  if expectedChecksum s.byte = actualChecksum s.byte then publish s
  else raise (.checksum (expectedChecksum s.byte) (actualChecksum s.byte)) s

/-- R152: `DECODE`, in one step. After it `BYTE` holds the assembled bytes and `PULSE` what was sampled: on a mismatch
R207 says so, on a match R16 and U8 leave both unspecified and it is the model's choice (DESIGN CHOICE, log 19). -/
def execDecode (s : State) : Host.Outcome State Fault Refusal :=
  .next (judgeFrame { s with byte := assemble s.pulse })

/-- R145: the contract `decode(pulses) -> Reading | ChecksumError` as a pure function of the pulses and the tag. -/
def decodeFrame (ps : Vector Pulse 40) (v : Variant) : ReadResult :=
  let b := assemble ps
  if expectedChecksum b = actualChecksum b then .reading ⟨dataBytes b, v⟩
  else .error (.checksum (expectedChecksum b) (actualChecksum b))

end Sys2Proof.Machine
end

