-- ==== Sys2Proof/Machine/Handshake.lean ====
section
/-! DEFINITION. The start signal: the six words of 43_handshake.md that the block drives the line with. -/

namespace Sys2Proof.Machine

/-- R121: `H1_SET` is `SETH`, then `H1_HOLD`. -/
def execH1Set (s : State) : Host.Outcome State Fault Refusal := .next (seth (goto Phase.h1Hold) s)

/-- R122: `H1_HOLD` is `DLYMS 1`, then `H2_SET`. -/
def execH1Hold (s : State) : Host.Outcome State Fault Refusal := .next (goto Phase.h2Set (dlyms settleMs s))

/-- R123: `H2_SET` is `SETL`, then `H2_HOLD`. -/
def execH2Set (s : State) : Host.Outcome State Fault Refusal := .next (setl (goto Phase.h2Hold) s)

/-- R124: `H2_HOLD` is `DLYUS SDLY`, then `H3_SET`. -/
def execH2Hold (s : State) : Host.Outcome State Fault Refusal := .next (goto Phase.h3Set (dlyus s.sdly s))

/-- R125: `H3_SET` is `SETH`, then `H3_HOLD`. -/
def execH3Set (s : State) : Host.Outcome State Fault Refusal := .next (seth (goto Phase.h3Hold) s)

/-- R126: `H3_HOLD` is `DLYUS 40`, then `ACK_LOW` with `CNT` 0 and `SUB` `POLL`. -/
def execH3Hold (s : State) : Host.Outcome State Fault Refusal :=
  .next (enterInvocation Phase.ackLow (dlyus releaseUs s))

end Sys2Proof.Machine
end

