-- ==== Sys2Proof/Machine/Sampler.lean ====
section
/-! DEFINITION. The pulse sampler (42_pulse_sampler.md), one primitive a step, and the three words that run it:
`ACK_LOW`, `ACK_HIGH` (43_handshake.md) and `SAMPLE` (44_frame_sampling.md). -/

namespace Sys2Proof.Machine

/-- R113, R116: what a poll that observed level `l` leads to, `E` being the expected level: the invocation returns
with its count in `CNT`, raises `Timeout`, or goes on to wait. -/
def judgePoll (E : Level) (onReturn : State → State) (l : Level) (s : State) : State :=
  if l = E then onReturn s
  else if s.cnt = maxTicks then raise .timeout s
  else { s with sub := .wait }

/-- R116: one step of a running `read_pulse(E)`; `onReturn` is what the sequencer does, in the same step, when the
invocation returns. -/
def pulseStep (E : Level) (onReturn : State → State) (s : State) : State :=
  match s.sub with
  | .poll => rdlv (judgePoll E onReturn) s
  | .wait =>
    let t := dlyus pollUs s
    { t with cnt := t.cnt + 1#8, sub := .poll }

/-- R115: one step of a running `time_level(L)`. -/
def levelStep (l : Level) (onReturn : State → State) (s : State) : State :=
  pulseStep (expectedLevel s.cfg.sense l) onReturn s

/-- R127: `ACK_LOW` is `TLVL low`, the count discarded, then `ACK_HIGH`. -/
def execAckLow (s : State) : Host.Outcome State Fault Refusal :=
  .next (levelStep Level.low (enterInvocation Phase.ackHigh) s)

/-- R128: `ACK_HIGH` is `TLVL high`, the count discarded, then `SAMPLE` with `IDX` 0. -/
def execAckHigh (s : State) : Host.Outcome State Fault Refusal :=
  .next (levelStep Level.high enterSampling s)

/-- R137: the count is stored to `PULSE[i]` half `h` and the next invocation begins, or `DECODE` after the last. -/
def storeSample (i : BitVec 6) (h : Level) (s : State) : State :=
  advanceSample (idxOf i h) { s with pulse := storeHalf s.pulse i h s.cnt }

/-- R137: `SAMPLE` is `TLVL h`, the count stored to `PULSE[i]` half `h`. There is no pulse above 39 (R70). -/
def execSample (i : BitVec 6) (h : Level) (s : State) : Host.Outcome State Fault Refusal :=
  if i.toNat < 40 then .next (levelStep h (storeSample i h) s)
  else .fault (.stuckSequencer (.indexRange (idxOf i h)))

end Sys2Proof.Machine
end

