-- ==== Sys2Proof/Machine/Dispatch.lean ====
section
/-! DEFINITION. One arm per operation. -/

namespace Sys2Proof.Machine

def exec (i : Instr) (s : State) : Host.Outcome State Fault Refusal :=
  match i with
  | .read => Sys2Proof.Machine.execRead s
  | .idle => Sys2Proof.Machine.execIdle s
  | .h1Set => Sys2Proof.Machine.execH1Set s
  | .h1Hold => Sys2Proof.Machine.execH1Hold s
  | .h2Set => Sys2Proof.Machine.execH2Set s
  | .h2Hold => Sys2Proof.Machine.execH2Hold s
  | .h3Set => Sys2Proof.Machine.execH3Set s
  | .h3Hold => Sys2Proof.Machine.execH3Hold s
  | .ackLow => Sys2Proof.Machine.execAckLow s
  | .ackHigh => Sys2Proof.Machine.execAckHigh s
  | .sample n h => Sys2Proof.Machine.execSample n h s
  | .decode => Sys2Proof.Machine.execDecode s

end Sys2Proof.Machine
end

