-- ==== Sys2Proof/Machine/HostPort.lean ====
section
/-! DEFINITION. The host register space (R26, R33) and the output port of the pin (R168). -/

namespace Sys2Proof.Machine

/-- R26: the value a read of host register `r` returns. It is a function of the state: a read has no side effect. -/
def hostValue (s : State) (r : BitVec 4) : Nat :=
  if r = 0x1#4 then s.configWord.toNat
  else if r = 0x2#4 then s.status.toNat
  else if r = 0x3#4 then s.data[0].toNat
  else if r = 0x4#4 then s.data[1].toNat
  else if r = 0x5#4 then s.data[2].toNat
  else if r = 0x6#4 then s.data[3].toNat
  else if r = 0x7#4 then s.ckexp.toNat
  else if r = 0x8#4 then s.ckact.toNat
  else if r = 0x9#4 then s.ioerr
  else if r = 0xA#4 then s.sdly.toNat
  else 0

/-- R26: the number of register `CMD`, the only register a write has an effect on. -/
@[simp] abbrev regCmd : BitVec 4 := 0x0#4

/-- R26, R33: the host reads register `r`. -/
def hostRead (r : BitVec 4) (s : State) : State := { s with rdata := hostValue s r }

/-- R168: the port `pin_drive_low`, `not DRV`. -/
def State.pinDriveLow (s : State) : Bool := !s.drv

end Sys2Proof.Machine
end

