-- ==== Sys2Proof/Machine/Fetch.lean ====
section
/-! DEFINITION. Who moves next and with what: a host access, or the receiver with its sequencer word (R33, R66, R162;
log 6). The sequence is hard-wired: the word comes from the position `(PHASE, IDX)`, not from a memory (R54). -/

namespace Sys2Proof.Machine

/-- What the next step does. -/
inductive Action where
  /-- The operation `i` runs in the state `t`. -/
  | run (i : Instr) (t : State)
  /-- The step is over with the state `t`: a host access that runs no operation. -/
  | settle (t : State)
  /-- The position is reserved (R70). -/
  | stuck (why : Reserved)
deriving DecidableEq, Repr

/-- R66, R70: the receiver's move: its sequencer word is decoded. -/
def receiverMove (s : State) : Action :=
  match decodeWord (.seq s.seqWord) with
  | .instr i => .run i s
  | .reserved why => .stuck why

/-- R25, R26, R70: a write to `CMD` runs the command it encodes; a reserved value, or a write to any other register,
has no effect. -/
def hostWrite (r : BitVec 4) (v : BitVec 8) (s : State) : Action :=
  if r = regCmd then
    match decodeWord (.cmd v) with
    | .instr i => .run i s
    | .reserved _ => .settle s
  else .settle s

/-- The next move: what the host does, if it does something now; else the receiver's. -/
def fetch (s : State) : Action :=
  match s.host with
  | [] => receiverMove s
  | .quiet :: q => receiverMove { s with host := q }
  | .write r v :: q => hostWrite r v { s with host := q }
  | .read r :: q => .settle (hostRead r { s with host := q })
  | .rst :: q => .settle (assertReset { s with host := q })

/-- A command word: the host writes it to `CMD` next. A sequencer word: the sequencer stands at that position and
the host is quiet (log 14). -/
def placeWord (s : State) : CodeWord → State
  | .cmd v => { s with host := .write regCmd v :: s.host }
  | .seq w => { s with phase := seqPhase w, idx := seqIndex w, host := .quiet :: s.host }

end Sys2Proof.Machine
end

