-- ==== Sys2Proof/Machine/Reading.lean ====
section
/-! DEFINITION. The pure functions on a finished result: unit conversions (41_variant_profile.md), accessors and
predicates (47_reading_error_model.md). Values are exact: tenths, and hundredths for Fahrenheit (R106, R181). -/

namespace Sys2Proof.Machine

/-- R101: `LOWRES` humidity in tenths; the whole decimal byte counts. -/
def humidityLowres (integral decimal : Byte) : Int := 10 * integral.toNat + decimal.toNat

/-- R102: `LOWRES` temperature in tenths. The flag (bit 7 of the decimal byte) negates and takes one whole degree
more; the low nibble is added AFTER that, in both cases; bits 6:4 are ignored. -/
def temperatureLowres (integral decimal : Byte) : Int :=
  let t : Int := 10 * integral.toNat
  let t := if decimal.getLsbD 7 then -10 - t else t
  t + (decimal.extractLsb' 0 4).toNat

/-- R103: the 15-bit magnitude of a `HIRES` temperature. -/
def magnitudeHires (integral decimal : Byte) : Nat := (integral.extractLsb' 0 7 ++ decimal).toNat

/-- R103: `HIRES` temperature in tenths, sign and magnitude, the sign in bit 7 of the integral byte. -/
def temperatureHires (integral decimal : Byte) : Int :=
  if integral.getLsbD 7 then -(magnitudeHires integral decimal : Int) else magnitudeHires integral decimal

/-- R104: `HIRES` humidity in tenths, unsigned, no sign bit. -/
def humidityHires (integral decimal : Byte) : Int := (integral ++ decimal).toNat

/-- R105, R108, R182: `humidity_percent` in tenths, by the Reading's own tag. -/
def Reading.humidityTenths (r : Reading) : Int :=
  match r.variant with
  | .lowres => humidityLowres r.data[0] r.data[1]
  | .hires => humidityHires r.data[0] r.data[1]

/-- R105, R108, R180: `temperature_celsius` in tenths, by the Reading's own tag. -/
def Reading.celsiusTenths (r : Reading) : Int :=
  match r.variant with
  | .lowres => temperatureLowres r.data[2] r.data[3]
  | .hires => temperatureHires r.data[2] r.data[3]

/-- R181: Celsius tenths to Fahrenheit hundredths, exact. -/
def fahrenheitHundredths (celsiusTenths : Int) : Int := 18 * celsiusTenths + 3200

/-- R181: `temperature_fahrenheit` in hundredths. -/
def Reading.fahrenheitHundredths (r : Reading) : Int := Machine.fahrenheitHundredths r.celsiusTenths

/-- The binary32 Celsius and humidity values the spec states: 40.0, -40.0, 45.0 and -26.5 for the document's worked operands
(R106), and a zero for the negated zero of `HIRES` (R103), its sign a parameter (93 U7; log 15). -/
def statedF32 (v : Variant) (q : Quantity) (integral decimal : Byte) : Option (BitVec 32) :=
  if v = .hires ∧ q = .temperatureCelsius ∧ integral = 0x01#8 ∧ decimal = 0x90#8 then some 0x42200000#32
  else if v = .hires ∧ q = .temperatureCelsius ∧ integral = 0x81#8 ∧ decimal = 0x90#8 then some 0xC2200000#32
  else if v = .hires ∧ q = .temperatureCelsius ∧ integral = 0x80#8 ∧ decimal = 0x00#8 then
    some (if Config.f32KeepsZeroSign then 0x80000000#32 else 0x00000000#32)
  else if v = .lowres ∧ q = .humidityPercent ∧ integral = 45#8 ∧ decimal = 0#8 then some 0x42340000#32
  else if v = .lowres ∧ q = .temperatureCelsius ∧ integral = 26#8 ∧ decimal = 0x85#8 then some 0xC1D40000#32
  else none

/-- The binary32 word of `n / 2`, for `n` of at most 24 bits: sign, exponent biased by 127, fraction of 23 bits. -/
def f32OfHalves (n : Int) : BitVec 32 :=
  let m := n.natAbs
  if m = 0 then 0#32
  else
    let e := m.log2
    BitVec.ofBool (decide (n < 0)) ++ BitVec.ofNat 8 (e + 126) ++ BitVec.ofNat 23 ((m - 2 ^ e) * 2 ^ (23 - e))

/-- R181, 93 U7: the binary32 Fahrenheit value where it is "exact, no rounding": where the product by 9/5 and the sum are
representable. With a Celsius value in tenths that is a multiple of 25 tenths both are halves; with any other the product
is no binary fraction (log 15). -/
def exactFahrenheitF32 (celsiusTenths : Int) : Option (BitVec 32) :=
  if celsiusTenths % 25 = 0 then some (f32OfHalves (fahrenheitHundredths celsiusTenths / 50)) else none

/-- R106, R181: the binary32 rendering of a quantity of a Reading: the value the spec gives, and where it gives none the
open parameter `F32_EVAL` (log 15). -/
def Reading.f32 (q : Quantity) (r : Reading) : BitVec 32 :=
  match q with
  | .temperatureCelsius =>
    (statedF32 r.variant q r.data[2] r.data[3]).getD (Config.f32Eval r.variant q r.data[2] r.data[3])
  | .temperatureFahrenheit =>
    (exactFahrenheitF32 r.celsiusTenths).getD (Config.f32Eval r.variant q r.data[2] r.data[3])
  | .humidityPercent =>
    (statedF32 r.variant q r.data[0] r.data[1]).getD (Config.f32Eval r.variant q r.data[0] r.data[1])

/-- R63: a Reading as one 33-bit word, `RVAR : DATA[0] : DATA[1] : DATA[2] : DATA[3]`. -/
def Reading.word (r : Reading) : BitVec 33 :=
  BitVec.ofBool (variantBit r.variant) ++ r.data[0] ++ r.data[1] ++ r.data[2] ++ r.data[3]

/-- R186: `is_io`. -/
def State.isIo (s : State) : Bool := s.ecode == Ecode.io

/-- R187: `is_timeout`. -/
def State.isTimeout (s : State) : Bool := s.ecode == Ecode.timeout

/-- R188: `is_checksum`. -/
def State.isChecksum (s : State) : Bool := s.ecode == Ecode.checksum

/-- R184: the wrapped IO error, present for the Io kind alone. -/
def State.wrappedIo (s : State) : Option Nat := if s.ecode = Ecode.io then some s.ioerr else none

/-- R189: the payload `(expected, actual)` of a Checksum error, present for that kind alone. -/
def State.checksumPayload (s : State) : Option (Byte × Byte) :=
  if s.ecode = Ecode.checksum then some (s.ckexp, s.ckact) else none

end Sys2Proof.Machine
end

