-- ==== Sys2Proof/Machine/Step.lean ====
section
/-! DEFINITION. One step of the machine, and where a step finds its operation. -/

namespace Sys2Proof.Machine

/-- One step: a host access, or one move of the receiver (R8, R33). -/
def step (s : State) : Host.Outcome State Fault Refusal :=
  match fetch s with
  | .run i t => exec i t
  | .settle t => .next t
  | .stuck why => .fault (.stuckSequencer why)

/-- `s` with the word `w` (numbered as spec/opcode_table.json numbers its bits) where the next step finds it; a `w`
that is no word leaves `s` as it is (log 14). -/
def State.withFetchWord (s : State) (nbits w : Nat) : State :=
  match wordOfBytes (tableBytes nbits w) with
  | some c => placeWord s c
  | none => s

end Sys2Proof.Machine
end

