-- ==== Sys2Proof/Safety.lean ====
section
/-! DEFINITION. What the claims are stated in: the invariants, the allowed transitions, runs, and the blocking-call
view of a `READ` (R165) as functions of the answers alone. -/

namespace Sys2Proof.Machine

/-! ### Runs -/

/-- `k` steps, stopping at the first fault or refusal. -/
def runSteps : Nat → State → Host.Outcome State Fault Refusal
  | 0, s => .next s
  | k + 1, s =>
    match step s with
    | .next t => runSteps k t
    | .fault r => .fault r
    | .refused r => .refused r

/-- The host does nothing before the receiver's next step. -/
def HostQuiet (s : State) : Prop := s.host.head? = none ∨ s.host.head? = some .quiet

/-- `s` once the host's next action has been taken from the script. -/
def popHost (s : State) : State := { s with host := s.host.tail }

/-! ### Words that run the sampler, and frames -/

/-- R67: the level a sampler word times. -/
def timedLevel : Instr → Option Level
  | .read => none
  | .idle => none
  | .h1Set => none
  | .h1Hold => none
  | .h2Set => none
  | .h2Hold => none
  | .h3Set => none
  | .h3Hold => none
  | .ackLow => some Level.low
  | .ackHigh => some Level.high
  | .sample _ h => some h
  | .decode => none

/-- R110, R115: `E` is the level that ends the count of a call that times `l`. -/
def EndsCount (c : Sense) (l E : Level) : Prop := (c = .timed → E = !l) ∧ (c = .awaited → E = l)

/-- The calls of `k` polls that missed, each followed by its tick, newest first (R111). -/
def missedPolls (k : Nat) : List Primitive := (List.replicate k [.delayUs 1#16, .pinRead]).flatten

/-- An answer that is a level and not `E`. -/
def Misses (E : Level) (p : PinIn) : Prop := p.fault = none ∧ p.level ≠ E

/-- R44, R146: the pulses carry the frame `b`, most-significant bit of byte 0 first. -/
def CarriesFrame (ps : Vector Pulse 40) (b : Vector Byte 5) : Prop :=
  ∀ (j k : Nat) (hj : j < 5) (hk : k < 8),
    (ps[8 * j + k].low.toNat < ps[8 * j + k].high.toNat) ↔ b[j].getLsbD (7 - k) = true

/-- The normal binary32 number `w` is exactly `q`: sign, exponent field `e` of bias 127, fraction of 23 bits (both sides
times `2 ^ 150`). -/
def RendersExactly (w : BitVec 32) (q : Rat) : Prop :=
  let e := (w.extractLsb' 23 8).toNat
  1 ≤ e ∧ e ≤ 254 ∧
    q * 2 ^ 150 = (if w.getLsbD 31 then -1 else 1) * ((2 ^ 23 + (w.extractLsb' 0 23).toNat : Nat) : Rat) * 2 ^ e

/-! ### Invariants -/

/-- The phases in which a sampler invocation runs (R15). -/
def samplerPhase (p : BitVec 4) : Bool := p == Phase.ackLow || p == Phase.ackHigh || p == Phase.sample

/-- R13, R14, R15, R11: the position is one the sequencer enters, and `CNT` cannot pass 255. -/
structure PositionInv (s : State) : Prop where
  /-- R13: the codes 0xB to 0xF are never entered. -/
  phaseLegal : s.phase.toNat ≤ 10
  /-- R14: the values 80 to 127 never occur. -/
  indexLegal : s.idx.toNat < 80
  /-- R70, R164: `IDX` is 0 from acceptance to the sampling loop. -/
  indexStart : 1 ≤ s.phase.toNat → s.phase.toNat ≤ 8 → s.idx = 0#7
  /-- R137, R163: `IDX` is what the last invocation left. -/
  indexEnd   : s.phase = Phase.decode → s.idx = 79#7
  /-- R15, R11: `WAIT` is a sub-state of a running invocation, and then `CNT` is below 255. -/
  waitLegal  : s.sub = .wait → samplerPhase s.phase = true ∧ s.cnt.toNat < 255

/-- R24, and R18, R19, R21: the status flags, and what the result registers read when they mean nothing. -/
structure ResultInv (s : State) : Prop where
  /-- R24: `BUSY` and `DONE` are never both 1. -/
  busyNotDone  : s.busy = true → s.done = false
  /-- R24: `OK = 1` implies `DONE = 1` and `ECODE = 0`. -/
  okIsDone     : s.ok = true → s.done = true ∧ s.ecode = 0#2
  /-- R24: `ECODE != 0` implies `DONE = 1` and `OK = 0`. -/
  errorIsDone  : s.ecode ≠ 0#2 → s.done = true ∧ s.ok = false
  /-- R24: `DONE = 1` implies one of the two. -/
  doneIsResult : s.done = true → s.ok = true ∨ s.ecode ≠ 0#2
  /-- R19, R24: `DATA` and `RVAR` read 0 unless `OK = 1`. -/
  dataCleared  : s.ok = false → s.data = Vector.replicate 4 0#8 ∧ s.rvar = .lowres
  /-- R18: `CKEXP` and `CKACT` read 0 unless `ECODE = 3`. -/
  checkCleared : s.ecode ≠ 3#2 → s.ckexp = 0#8 ∧ s.ckact = 0#8
  /-- R21: `IOERR` reads 0 unless `ECODE = 1`. -/
  ioCleared    : s.ecode ≠ 1#2 → s.ioerr = 0
  /-- R21: `IOERR` is `IOERR_W` bits wide. -/
  ioWidth      : s.ioerr < 2 ^ s.cfg.ioerrW
  /-- R105: the Reading's tag is the variant of the instance that produced it. -/
  tagIsVariant : s.ok = true → s.rvar = s.cfg.variant

/-- R120, R207, R249: the level commanded in each phase after the first set. -/
structure LineInv (s : State) : Prop where
  /-- R123 to R125: the line is commanded low during the start signal proper. -/
  startLow    : s.phase = Phase.h2Hold ∨ s.phase = Phase.h3Set → s.drv = false
  /-- R121, R122, R249: it is commanded high before, and released the whole time the block listens. -/
  releaseHigh : s.phase = Phase.h1Hold ∨ s.phase = Phase.h2Set ∨ 6 ≤ s.phase.toNat → s.drv = true

/-! ### What no host can observe -/

/-- Half `n` of the frame buffer: invocation `n` of the sampling loop writes it (R135). -/
def halfAt (ps : Vector Pulse 40) (n : Fin 80) : Byte :=
  if n.val % 2 = 0 then (ps[n.val / 2]'(by omega)).low else (ps[n.val / 2]'(by omega)).high

/-- R16: the window between the sampling loop's write and the decoder's read: the halves that the running `READ` has
written and not yet read. -/
def inWindow (s : State) (n : Fin 80) : Prop :=
  (s.phase = Phase.sample ∧ n.val < s.idx.toNat) ∨ s.phase = Phase.decode

/-- The two states differ at most in frame buffer contents outside that window. -/
def SameButStaleFrame (s u : State) : Prop :=
  u = { s with pulse := u.pulse, byte := u.byte } ∧ ∀ n, inWindow s n → halfAt u.pulse n = halfAt s.pulse n

/-! ### The blocking-call view -/

/-- A routine that takes answers of the line environment in order: none if the answers run out; else a value or the
error raised, and the answers left over. -/
abbrev Routine (α : Type) := List PinIn → Option (Except ReadError α × List PinIn)

/-- One routine, then another; the first error ends both (R205). -/
def Routine.andThen {α β : Type} (x : Routine α) (f : α → Routine β) : Routine β := fun ps =>
  match x ps with
  | none => none
  | some (.error e, rest) => some (.error e, rest)
  | some (.ok a, rest) => f a rest

/-- R90, R91, R95: a pin set. -/
def setRoutine (w : Nat) : Routine Unit
  | [] => none
  | p :: ps =>
    match p.fault with
    | some e => some (.error (.io (e % 2 ^ w)), ps)
    | none => some (.ok (), ps)

/-- R110 to R113: `read_pulse(E)` with `c` ticks counted so far. -/
def readPulse (w : Nat) (E : Level) : Nat → Routine Nat
  | _, [] => none
  | c, p :: ps =>
    match p.fault with
    | some e => some (.error (.io (e % 2 ^ w)), ps)
    | none =>
      if p.level = E then some (.ok c, ps)
      else if c = 255 then some (.error .timeout, ps)
      else readPulse w E (c + 1) ps

/-- R115: `time_level(L)`. -/
def timeLevel (c : Settings) (l : Level) : Routine Nat :=
  readPulse c.ioerrW (match c.sense with | .timed => !l | .awaited => l) 0

/-- R135: the last `k` of the 80 sampling invocations, `n` the first of them; the counts in order. -/
def samplingLoop (c : Settings) : (k n : Nat) → Routine (List Nat)
  | 0, _ => fun ps => some (.ok [], ps)
  | k + 1, n => (timeLevel c (n % 2 == 1)).andThen fun m =>
      (samplingLoop c k (n + 1)).andThen fun ms ps => some (.ok (m :: ms), ps)

/-- What a `READ` measures: the two acknowledgement counts and the 80 sampling counts. -/
structure Counts where
  ackLow  : Nat
  ackHigh : Nat
  samples : List Nat
deriving DecidableEq, Repr

/-- R120, R135, R172: the handshake and the sampling loop. -/
def measure (c : Settings) : Routine Counts :=
  (setRoutine c.ioerrW).andThen fun _ =>
  (setRoutine c.ioerrW).andThen fun _ =>
  (setRoutine c.ioerrW).andThen fun _ =>
  (timeLevel c Level.low).andThen fun a =>
  (timeLevel c Level.high).andThen fun b =>
  (samplingLoop c 80 0).andThen fun cs ps => some (.ok ⟨a, b, cs⟩, ps)

/-- R135: the 40 pulses of the 80 counts: pulse `i` is `(count 2i, count 2i + 1)`. -/
def pulsesOfCounts (cs : List Nat) : Vector Pulse 40 :=
  Vector.ofFn fun i => ⟨BitVec.ofNat 8 (cs.getD (2 * i.val) 0), BitVec.ofNat 8 (cs.getD (2 * i.val + 1) 0)⟩

/-- R160, R165: the whole `read()` as a function of the answers. -/
def readRoutine (c : Settings) (ps : List PinIn) : Option (ReadResult × List PinIn) :=
  match measure c ps with
  | none => none
  | some (.error e, rest) => some (.error e, rest)
  | some (.ok m, rest) => some (decodeFrame (pulsesOfCounts m.samples) c.variant, rest)

/-- The poll calls of a record. -/
def pollCount (cs : List Primitive) : Nat := cs.countP fun c => c == .pinRead

/-- The pin sets of a record. -/
def setCount (cs : List Primitive) : Nat := cs.countP fun c => c == .pinSetHigh || c == .pinSetLow

end Sys2Proof.Machine
end

