-- ==== Sys2Proof/Certificates/Slice0/Obligations.lean ====
section
/-! DEFINITION. The statements for the provers. Numeric codes and layouts of the command, of the sequencer word and of the
host registers are the spec's own decisions (92_eei_decisions.md D13, D14, D19, D28), as the titles say. -/

open Sys2Proof Sys2Proof.Machine

/-! ### Encoding -/

/-- R69 (codes: the spec's decisions D19, D28): no bit of an encoding is dropped, in the word or in its bytes. -/
def Obligations.DecodeOfEncodeIsTheInstruction : Prop :=
  ∀ i : Instr, i.wellFormed = true → decodeWord (encode i) = .instr i ∧ decodeBytes (encodeBytes i) = .instr i

/-- R69 (codes: D19, D28): a word has one meaning, and it is the encoding of what it decodes to. -/
def Obligations.DecodedWordIsTheEncoding : Prop :=
  ∀ (w : CodeWord) (i : Instr), decodeWord w = .instr i → i.wellFormed = true ∧ encode i = w

/-- R70 (D19, D28): exactly the reserved encodings are refused. -/
def Obligations.ReservedWordsAreRefused : Prop :=
  (∀ v : BitVec 8, (∃ i, decodeWord (.cmd v) = .instr i) ↔ v = 0x01#8) ∧
  (∀ (p : BitVec 4) (n : BitVec 7),
    (∃ i, decodeWord (.seq (p ++ n)) = .instr i) ↔
      p.toNat ≤ 0xA ∧ (p = 0x9#4 → n.toNat < 80) ∧ (p ≠ 0x9#4 → n = 0#7))

/-- R69 (D19, D28): words written out from the encodings of the operation map. -/
def Obligations.TableWordsDecode : Prop :=
  decodeTableWord 8 0b00000001 = some .read ∧
  decodeTableWord 16 0b00000000000 = some .idle ∧
  decodeTableWord 16 0b00010000000 = some .h1Set ∧
  decodeTableWord 16 0b00100000000 = some .h1Hold ∧
  decodeTableWord 16 0b00110000000 = some .h2Set ∧
  decodeTableWord 16 0b01000000000 = some .h2Hold ∧
  decodeTableWord 16 0b01010000000 = some .h3Set ∧
  decodeTableWord 16 0b01100000000 = some .h3Hold ∧
  decodeTableWord 16 0b01110000000 = some .ackLow ∧
  decodeTableWord 16 0b10000000000 = some .ackHigh ∧
  decodeTableWord 16 0b10010001101 = some (.sample 6#6 true) ∧
  decodeTableWord 16 0b10011001110 = some (.sample 39#6 false) ∧
  decodeTableWord 16 0b10100000000 = some .decode ∧
  decodeTableWord 16 0b10011010000 = none ∧
  decodeTableWord 16 0b10110000000 = none ∧
  decodeTableWord 8 0b00000010 = none

/-! ### A step runs the decoded operation -/

/-- R66, R162: when the host is quiet, a step is the operation of the sequencer word `PHASE : IDX`. That the index field
is 0 in `IDLE` and `DECODE` over the value the sampling loop left in the register `IDX` is DEDUCED (log 7). -/
def Obligations.StepRunsTheSequencerWord : Prop :=
  ∀ (s : State) (i : Instr), HostQuiet s →
    decodeWord (.seq (s.phase ++
      (if (s.phase = 0x0#4 ∧ s.idx.toNat < 80) ∨ (s.phase = 0xA#4 ∧ s.idx = 79#7) then 0#7 else s.idx))) = .instr i →
    step s = exec i { s with host := s.host.tail }

/-- R25, R160 (D28): the host's write of 0x01 to `CMD` is the `READ` command. -/
def Obligations.CommandWriteRunsRead : Prop :=
  ∀ (s : State) (q : List HostOp), s.host = .write 0x0#4 0x01#8 :: q → step s = exec .read { s with host := q }

/-- The word `withFetchWord` places is the one the next step runs (the model's choice of where a word stands: log 14). -/
def Obligations.PlacedWordRunsNext : Prop :=
  (∀ (s : State) (w : BitVec 11) (i : Instr), decodeWord (.seq w) = .instr i →
    step (s.withFetchWord 16 w.toNat) = exec i { s with phase := seqPhase w, idx := seqIndex w }) ∧
  (∀ s : State, step (s.withFetchWord 8 0x01) = exec .read s)

/-- R70, 93 U14 (D19): the receiver is stuck in the reserved positions: `PHASE` 0xB to 0xF, `IDX` 80 to 127, and `IDX`
not 0 outside `SAMPLE`. The model's choices: the positions the rules themselves lead to, `IDX` 1..79 in `IDLE` and 79 in
`DECODE`, are not reserved (log 7, DEDUCED), the receiver's step there is a fault, and a host access runs in every
position (log 8, DEDUCED). -/
def Obligations.StuckExactlyInReservedPositions : Prop :=
  ∀ s : State, (∃ f, step s = .fault f) ↔
    HostQuiet s ∧ (0xB ≤ s.phase.toNat ∨ 80 ≤ s.idx.toNat ∨
      (1 ≤ s.phase.toNat ∧ s.phase.toNat ≤ 8 ∧ s.idx ≠ 0#7) ∨ (s.phase = 0xA#4 ∧ s.idx ≠ 0#7 ∧ s.idx ≠ 79#7))

/-- R25, R26, R33, R70 (D14, D28): a read, a write to another register and a reserved command have no effect on the
block. -/
def Obligations.HostAccessesAreInert : Prop :=
  (∀ (s : State) (r : BitVec 4) (q : List HostOp), s.host = .read r :: q →
    step s = .next { s with host := q, rdata := hostValue s r }) ∧
  (∀ (s : State) (r : BitVec 4) (v : BitVec 8) (q : List HostOp), s.host = .write r v :: q →
    (r ≠ 0x0#4 ∨ v ≠ 0x01#8) → step s = .next { s with host := q })

/-! ### The command and the idle word -/

/-- R161, R164 (D15, D18): `READ` is accepted in `IDLE`, with everything R164 clears, and has no effect while busy.
That the record of calls starts anew is the model's choice (log 10). -/
def Obligations.ReadAcceptedOnlyInIdle : Prop :=
  ∀ s : State,
    (s.phase = Phase.idle → exec .read s = .next { s with
      done := false, ok := false, ecode := 0#2, rvar := .lowres, data := #v[0#8, 0#8, 0#8, 0#8], ckexp := 0#8,
      ckact := 0#8, ioerr := 0, phase := Phase.h1Set, idx := 0#7, cnt := 0#8, sub := .poll, trace := [] }) ∧
    (s.phase ≠ Phase.idle → exec .read s = .next s)

/-- R161: `IDLE` performs no primitive and changes no state. -/
def Obligations.IdleChangesNothing : Prop := ∀ s : State, exec .idle s = .next s

/-! ### The start signal -/

/-- R121: `H1_SET`. On a failed set the level of `DRV` is drawn between the old and the commanded one (R90, D17). -/
def Obligations.H1SetDrivesHigh : Prop :=
  ∀ s : State,
    ((pinAnswer s).fault = none → exec .h1Set s = .next { popPin s with
      drv := true, trace := .pinSetHigh :: s.trace, phase := Phase.h1Hold }) ∧
    (∀ e, (pinAnswer s).fault = some e → exec .h1Set s = .next { popPin s with
      drv := (if (pinAnswer s).took then true else s.drv), trace := .pinSetHigh :: s.trace, phase := Phase.idle,
      done := true, ecode := 1#2, ioerr := e })

/-- R122: `H1_HOLD` requests one millisecond (1000 microseconds of `T`, R5) and goes to `H2_SET`. -/
def Obligations.H1HoldWaitsOneMillisecond : Prop :=
  ∀ s : State, ∃ t, exec .h1Hold s = .next t ∧
    t = { s with trace := .delayMs 1#16 :: s.trace, phase := Phase.h2Set } ∧ t.time = s.time + 1000

/-- R123: `H2_SET`. On a failed set the level of `DRV` is drawn between the old and the commanded one (R91, D17). -/
def Obligations.H2SetPullsLow : Prop :=
  ∀ s : State,
    ((pinAnswer s).fault = none → exec .h2Set s = .next { popPin s with
      drv := false, trace := .pinSetLow :: s.trace, phase := Phase.h2Hold }) ∧
    (∀ e, (pinAnswer s).fault = some e → exec .h2Set s = .next { popPin s with
      drv := (if (pinAnswer s).took then false else s.drv), trace := .pinSetLow :: s.trace, phase := Phase.idle,
      done := true, ecode := 1#2, ioerr := e })

/-- R124, R100: `H2_HOLD` requests `START_DELAY_US[VARIANT]` microseconds and goes to `H3_SET`. -/
def Obligations.H2HoldWaitsTheStartDelay : Prop :=
  ∀ s : State, ∃ t n, exec .h2Hold s = .next t ∧
    (s.cfg.variant = .lowres → n = s.cfg.startDelayLowres) ∧ (s.cfg.variant = .hires → n = s.cfg.startDelayHires) ∧
    t = { s with trace := .delayUs n :: s.trace, phase := Phase.h3Set } ∧ t.time = s.time + n.toNat

/-- R125: `H3_SET`. On a failed set `DRV` may still be what it was (R90, D17). -/
def Obligations.H3SetReleasesTheLine : Prop :=
  ∀ s : State,
    ((pinAnswer s).fault = none → exec .h3Set s = .next { popPin s with
      drv := true, trace := .pinSetHigh :: s.trace, phase := Phase.h3Hold }) ∧
    (∀ e, (pinAnswer s).fault = some e → exec .h3Set s = .next { popPin s with
      drv := (if (pinAnswer s).took then true else s.drv), trace := .pinSetHigh :: s.trace, phase := Phase.idle,
      done := true, ecode := 1#2, ioerr := e })

/-- R126: `H3_HOLD` requests 40 microseconds, makes no poll, and goes to `ACK_LOW` with `CNT` 0 and `SUB` `POLL`. -/
def Obligations.H3HoldWaitsFortyMicroseconds : Prop :=
  ∀ s : State, ∃ t, exec .h3Hold s = .next t ∧
    t = { s with trace := .delayUs 40#16 :: s.trace, phase := Phase.ackLow, cnt := 0#8, sub := .poll } ∧
    t.time = s.time + 40

/-- What a pin operation is answered: the script's next answer, its error value `IOERR_W` bits wide; a free value when
the script has ended (the model's choice of form: log 4, 13). -/
def Obligations.AnswersFollowTheScript : Prop :=
  (∀ (s : State) (p : PinIn) (ps : List PinIn), s.pins = p :: ps →
    (pinAnswer s).level = p.level ∧ (pinAnswer s).took = p.took ∧
    (pinAnswer s).fault = p.fault.map (fun e => e % 2 ^ s.cfg.ioerrW) ∧ popPin s = { s with pins := ps }) ∧
  (∀ s : State, s.pins = [] →
    pinAnswer s = clipFault s.cfg.ioerrW (Config.freePin s.draws) ∧ popPin s = { s with draws := s.draws + 1 })

/-! ### The pulse sampler -/

/-- R116, row `WAIT` (D30), for all three sampler words. The addition is modulo 256: at `CNT` 255, which no run reaches in
`WAIT` (R11, R112, `StepKeepsThePosition`), it gives 0, the model's choice (log 18, DESIGN CHOICE). -/
def Obligations.SamplerWaitCountsOneTick : Prop :=
  ∀ (i : Instr) (l : Level) (s : State), i.wellFormed = true → timedLevel i = some l → s.sub = .wait →
    ∃ t, exec i s = .next t ∧
      t = { s with trace := .delayUs 1#16 :: s.trace, cnt := s.cnt + 1#8, sub := .poll } ∧ t.time = s.time + 1

/-- R116, row `POLL` (D30), a poll that misses with budget left, for all three sampler words. -/
def Obligations.SamplerMissGoesOnWaiting : Prop :=
  ∀ (i : Instr) (l E : Level) (s : State), i.wellFormed = true → timedLevel i = some l →
    EndsCount s.cfg.sense l E → s.sub = .poll → Misses E (pinAnswer s) → s.cnt ≠ 255#8 →
    exec i s = .next { popPin s with trace := .pinRead :: s.trace, sub := .wait }

/-- R112, R206: a poll that misses at count 255 raises `Timeout`, in all three sampler words. -/
def Obligations.SamplerTimesOutAtCount255 : Prop :=
  ∀ (i : Instr) (l E : Level) (s : State), i.wellFormed = true → timedLevel i = some l →
    EndsCount s.cfg.sense l E → s.sub = .poll → Misses E (pinAnswer s) → s.cnt = 255#8 →
    exec i s = .next { popPin s with
      trace := .pinRead :: s.trace, phase := Phase.idle, done := true, ecode := 2#2 }

/-- R113, R206 (D6): a failed poll raises `Io` whatever `CNT` is, 255 included. -/
def Obligations.SamplerIoHasPrecedence : Prop :=
  ∀ (i : Instr) (l : Level) (s : State) (e : Nat), i.wellFormed = true → timedLevel i = some l → s.sub = .poll →
    (pinAnswer s).fault = some e →
    exec i s = .next { popPin s with
      trace := .pinRead :: s.trace, phase := Phase.idle, done := true, ecode := 1#2, ioerr := e }

/-- R127, R128: a poll that observes the expected level ends the acknowledgement; the count is discarded. -/
def Obligations.AcknowledgementsEndAtTheFirstHit : Prop :=
  ∀ (s : State) (E : Level), s.sub = .poll → (pinAnswer s).fault = none → (pinAnswer s).level = E →
    (EndsCount s.cfg.sense Level.low E → exec .ackLow s = .next { popPin s with
      trace := .pinRead :: s.trace, phase := Phase.ackHigh, cnt := 0#8, sub := .poll }) ∧
    (EndsCount s.cfg.sense Level.high E → exec .ackHigh s = .next { popPin s with
      trace := .pinRead :: s.trace, phase := Phase.sample, idx := 0#7, cnt := 0#8, sub := .poll })

/-- R137, R163: a poll that observes the expected level stores the count into the word's half of the word's pulse and
into no other, and goes on to the next invocation, or to `DECODE` after the last. -/
def Obligations.SampleStoresTheCount : Prop :=
  ∀ (i : BitVec 6) (h E : Level) (s : State), i.toNat < 40 → EndsCount s.cfg.sense h E → s.sub = .poll →
    (pinAnswer s).fault = none → (pinAnswer s).level = E →
    ∃ ps : Vector Pulse 40,
      (∀ n : Fin 80, halfAt ps n = if n.val = 2 * i.toNat + h.toNat then s.cnt else halfAt s.pulse n) ∧
      (2 * i.toNat + h.toNat = 79 → exec (.sample i h) s = .next { popPin s with
        trace := .pinRead :: s.trace, pulse := ps, phase := Phase.decode }) ∧
      (2 * i.toNat + h.toNat ≠ 79 → exec (.sample i h) s = .next { popPin s with
        trace := .pinRead :: s.trace, pulse := ps, phase := Phase.sample,
        idx := BitVec.ofNat 7 (2 * i.toNat + h.toNat + 1), cnt := 0#8, sub := .poll })

/-- R70 (D19): there is no pulse above 39; `SAMPLE` with such an index is stuck. -/
def Obligations.SampleBeyondTheFrameIsStuck : Prop :=
  ∀ (i : BitVec 6) (h : Level) (s : State), 40 ≤ i.toNat → ∃ f, exec (.sample i h) s = .fault f

/-- R111, R114, R118(b): `k` misses, `k` at most 255, make `k` polls and `k` ticks and leave the count at `k`, with the
next answer still to come. By the two statements before, an answer at the expected level then ends the invocation with
the result `k` and `k + 1` polls. -/
def Obligations.InvocationCountsItsMisses : Prop :=
  ∀ (s : State) (i : Instr) (l E : Level) (misses rest : List PinIn),
    s.host = [] → decodeWord (.seq s.seqWord) = .instr i → timedLevel i = some l → EndsCount s.cfg.sense l E →
    s.sub = .poll → s.cnt = 0#8 → s.pins = misses ++ rest → (∀ p ∈ misses, Misses E p) → misses.length ≤ 255 →
    ∃ t, runSteps (2 * misses.length) s = .next t ∧
      t = { s with
        cnt := BitVec.ofNat 8 misses.length, pins := rest, trace := missedPolls misses.length ++ s.trace } ∧
      t.time = s.time + misses.length

/-- R112, R118(a): 256 misses raise `Timeout` after 256 polls and 255 ticks. The boundary of 256 polls is the spec's
decision D4 (90 C6, 93 U20), the value of `ECODE` D13 (R206), and that a poll and a tick are one step each D30 (log 11,
DEDUCED). -/
def Obligations.InvocationTimesOutAfter256Misses : Prop :=
  ∀ (s : State) (i : Instr) (l E : Level) (misses rest : List PinIn),
    s.host = [] → decodeWord (.seq s.seqWord) = .instr i → timedLevel i = some l → EndsCount s.cfg.sense l E →
    s.sub = .poll → s.cnt = 0#8 → s.pins = misses ++ rest → (∀ p ∈ misses, Misses E p) → misses.length = 256 →
    runSteps 511 s = .next { s with
      cnt := 255#8, pins := rest, trace := .pinRead :: (missedPolls 255 ++ s.trace), phase := Phase.idle,
      done := true, ecode := 2#2 }

/-! ### The frame decoder -/

/-- R146, R148, R44: the bits of the assembled bytes. They are read from `BYTE` after the step, where a match keeps them
by the model's choice (log 19). -/
def Obligations.FirstPulseIsTheMostSignificantBit : Prop :=
  ∀ s : State, ∃ t, exec .decode s = .next t ∧
    ∀ (j k : Nat) (hj : j < 5) (hk : k < 8),
      t.byte[j].getLsbD (7 - k) = decide (s.pulse[8 * j + k].low.toNat < s.pulse[8 * j + k].high.toNat)

/-- R149, R151: a frame whose fifth byte is the low byte of the sum of the first four byte values is published.
That `PULSE` then stays as it is and `BYTE` holds the assembled bytes is the model's choice (log 19). -/
def Obligations.ChecksumMatchPublishesTheReading : Prop :=
  ∀ (s : State) (b : Vector Byte 5), CarriesFrame s.pulse b →
    (b[0].toNat + b[1].toNat + b[2].toNat + b[3].toNat) % 256 = b[4].toNat →
    exec .decode s = .next { s with
      byte := b, data := #v[b[0], b[1], b[2], b[3]], rvar := s.cfg.variant, ok := true, phase := Phase.idle,
      done := true }

/-- R149, R150, R206: any other frame raises `Checksum` with both values. -/
def Obligations.ChecksumMismatchReportsBothValues : Prop :=
  ∀ (s : State) (b : Vector Byte 5), CarriesFrame s.pulse b →
    (b[0].toNat + b[1].toNat + b[2].toNat + b[3].toNat) % 256 ≠ b[4].toNat →
    exec .decode s = .next { s with
      byte := b, ecode := 3#2,
      ckexp := BitVec.ofNat 8 (b[0].toNat + b[1].toNat + b[2].toNat + b[3].toNat), ckact := b[4],
      phase := Phase.idle, done := true }

/-- R147 (derived in the spec from R146, R148, R149): frames of one bit value. That `BYTE` holds the assembled bytes
after the match is the model's choice (log 19). -/
def Obligations.UniformFrames : Prop :=
  ∀ s : State,
    ((∀ (n : Nat) (hn : n < 40), s.pulse[n].low.toNat < s.pulse[n].high.toNat) →
      ∃ t, exec .decode s = .next t ∧ t.byte = Vector.replicate 5 0xFF#8 ∧ t.ecode = 3#2 ∧ t.ckexp = 0xFC#8 ∧
        t.ckact = 0xFF#8) ∧
    ((∀ (n : Nat) (hn : n < 40), s.pulse[n].high.toNat ≤ s.pulse[n].low.toNat) →
      ∃ t, exec .decode s = .next t ∧ t.byte = Vector.replicate 5 0x00#8 ∧ t.ok = true ∧
        t.data = Vector.replicate 4 0x00#8)

/-- R145, R147: the decoder sees the comparison of each pulse's durations and nothing else of them. That `PULSE` stays
as it is and `BYTE` holds the assembled bytes after a match is the model's choice (log 19). -/
def Obligations.DecodeSeesOnlyRelativeDurations : Prop :=
  ∀ (s t : State) (ps : Vector Pulse 40),
    (∀ (n : Nat) (hn : n < 40), ps[n].low.toNat < ps[n].high.toNat ↔ s.pulse[n].low.toNat < s.pulse[n].high.toNat) →
    exec .decode s = .next t → exec .decode { s with pulse := ps } = .next { t with pulse := ps }

/-- R145: the decoder always has a result, makes no call, uses no answer and no time; the result is the pure function's
of the pulses and the variant, a Reading or a `Checksum` error. That `PULSE` stays as it is after a match is the model's
choice (log 19; after a mismatch R207 says so). -/
def Obligations.DecodeIsPure : Prop :=
  ∀ s : State, ∃ t, exec .decode s = .next t ∧
    t.trace = s.trace ∧ t.time = s.time ∧ t.pins = s.pins ∧ t.draws = s.draws ∧ t.pulse = s.pulse ∧
    (s.ok = false → s.ecode = 0#2 → t.result = some (decodeFrame s.pulse s.cfg.variant)) ∧
    ((∃ r, decodeFrame s.pulse s.cfg.variant = .reading r) ∨
      (∃ a b, decodeFrame s.pulse s.cfg.variant = .error (.checksum a b)))

/-! ### Host registers, predicates and conversions -/

/-- R24 (D13, D14): the bits of `STATUS`, read at register 0x2. -/
def Obligations.StatusLayout : Prop :=
  ∀ s : State, hostValue s 0x2#4 =
    (if s.phase = Phase.idle then 0 else 1) + (if s.done then 2 else 0) + (if s.ok then 4 else 0)
      + 8 * s.ecode.toNat + (if s.rvar = .hires then 32 else 0)

/-- R26 (D14): the values of the other registers; `CMD` and the reserved numbers read 0. -/
def Obligations.RegisterMap : Prop :=
  ∀ s : State,
    hostValue s 0x0#4 = 0 ∧ hostValue s 0x1#4 = (if s.cfg.variant = .hires then 1 else 0) ∧
    hostValue s 0x3#4 = s.data[0].toNat ∧ hostValue s 0x4#4 = s.data[1].toNat ∧
    hostValue s 0x5#4 = s.data[2].toNat ∧ hostValue s 0x6#4 = s.data[3].toNat ∧
    hostValue s 0x7#4 = s.ckexp.toNat ∧ hostValue s 0x8#4 = s.ckact.toNat ∧ hostValue s 0x9#4 = s.ioerr ∧
    hostValue s 0xA#4 = (match s.cfg.variant with
      | .lowres => s.cfg.startDelayLowres.toNat
      | .hires => s.cfg.startDelayHires.toNat) ∧
    (∀ r : BitVec 4, 0xB ≤ r.toNat → hostValue s r = 0)

/-- R186, R187, R188: the predicates, each true exactly for its kind, all false without an error. -/
def Obligations.ErrorPredicatesAreExclusive : Prop :=
  ∀ s : State,
    (s.isIo = true ↔ s.ecode = 1#2) ∧ (s.isTimeout = true ↔ s.ecode = 2#2) ∧ (s.isChecksum = true ↔ s.ecode = 3#2) ∧
    (s.ecode = 0#2 → s.isIo = false ∧ s.isTimeout = false ∧ s.isChecksum = false) ∧
    (s.ecode ≠ 0#2 →
      (s.isIo = true ∧ s.isTimeout = false ∧ s.isChecksum = false) ∨
      (s.isIo = false ∧ s.isTimeout = true ∧ s.isChecksum = false) ∨
      (s.isIo = false ∧ s.isTimeout = false ∧ s.isChecksum = true))

/-- R101, R104: humidity of both variants, in tenths, with its range. -/
def Obligations.HumidityTenths : Prop :=
  ∀ r : Reading,
    (r.variant = .lowres →
      r.humidityTenths = 10 * (r.data[0].toNat : Int) + r.data[1].toNat ∧ r.humidityTenths ≤ 2805) ∧
    (r.variant = .hires →
      r.humidityTenths = 256 * (r.data[0].toNat : Int) + r.data[1].toNat ∧ r.humidityTenths ≤ 65535) ∧
    0 ≤ r.humidityTenths

/-- R102: `LOWRES` temperature in tenths: the flag negates and takes one whole degree more, the low nibble is added
after it in both cases, bits 6:4 are ignored; with the two ranges. -/
def Obligations.LowresTemperatureTenths : Prop :=
  ∀ r : Reading, r.variant = .lowres →
    (r.data[3].toNat < 128 →
      r.celsiusTenths = 10 * (r.data[2].toNat : Int) + (r.data[3].toNat % 16 : Nat) ∧
      0 ≤ r.celsiusTenths ∧ r.celsiusTenths ≤ 2565) ∧
    (128 ≤ r.data[3].toNat →
      r.celsiusTenths = -10 - 10 * (r.data[2].toNat : Int) + (r.data[3].toNat % 16 : Nat) ∧
      -2560 ≤ r.celsiusTenths ∧ r.celsiusTenths ≤ 5)

/-- R103: `HIRES` temperature in tenths: sign and a 15-bit magnitude. -/
def Obligations.HiresTemperatureTenths : Prop :=
  ∀ r : Reading, r.variant = .hires →
    (r.data[2].toNat < 128 →
      r.celsiusTenths = 256 * (r.data[2].toNat : Int) + r.data[3].toNat ∧ r.celsiusTenths ≤ 32767) ∧
    (128 ≤ r.data[2].toNat →
      r.celsiusTenths = -(256 * ((r.data[2].toNat : Int) - 128) + r.data[3].toNat) ∧ -32767 ≤ r.celsiusTenths)

/-- R181: Fahrenheit is exactly 9/5 of the Celsius value plus 32: as a rational for every Reading, and in binary32 where the
product and the sum are representable. Which Celsius values those are, the multiples of 2.5 degrees, is DEDUCED (log 15). -/
def Obligations.FahrenheitIsExact : Prop :=
  ∀ r : Reading,
    (r.fahrenheitHundredths : Rat) / 100 = (r.celsiusTenths : Rat) / 10 * 9 / 5 + 32 ∧
    (r.celsiusTenths % 25 = 0 → RendersExactly (r.f32 .temperatureFahrenheit) ((r.celsiusTenths : Rat) / 10 * 9 / 5 + 32))

/-- R103, R106, R181: the binary32 values the spec states, in every Reading that has them; the sign of the negated zero is a
parameter (93 U7, log 15). The last two are the two worked Celsius values in Fahrenheit, 104.0 and -40.0. -/
def Obligations.StatedBinary32Values : Prop :=
  ∀ r : Reading,
    (r.variant = .hires → r.data[2] = 0x01#8 → r.data[3] = 0x90#8 → r.f32 .temperatureCelsius = 0x42200000#32) ∧
    (r.variant = .hires → r.data[2] = 0x81#8 → r.data[3] = 0x90#8 → r.f32 .temperatureCelsius = 0xC2200000#32) ∧
    (r.variant = .hires → r.data[2] = 0x80#8 → r.data[3] = 0x00#8 →
      r.f32 .temperatureCelsius = if Config.f32KeepsZeroSign then 0x80000000#32 else 0x00000000#32) ∧
    (r.variant = .lowres → r.data[0] = 45#8 → r.data[1] = 0#8 → r.f32 .humidityPercent = 0x42340000#32) ∧
    (r.variant = .lowres → r.data[2] = 26#8 → r.data[3] = 0x85#8 → r.f32 .temperatureCelsius = 0xC1D40000#32) ∧
    (r.celsiusTenths = 0 → r.f32 .temperatureFahrenheit = 0x42000000#32) ∧
    (r.celsiusTenths = 1000 → r.f32 .temperatureFahrenheit = 0x43540000#32) ∧
    (r.celsiusTenths = 400 → r.f32 .temperatureFahrenheit = 0x42D00000#32) ∧
    (r.celsiusTenths = -400 → r.f32 .temperatureFahrenheit = 0xC2200000#32)

/-! ### Reset -/

/-- R30 (D16): what reset leaves. `PULSE` and `BYTE` are not stated: the spec leaves them unspecified (log 9). -/
def Obligations.ResetLeavesTheSpecsValues : Prop :=
  State.reset.phase = 0x0#4 ∧ State.reset.idx = 0#7 ∧ State.reset.sub = .poll ∧ State.reset.cnt = 0#8 ∧
  State.reset.drv = true ∧ State.reset.data = #v[0#8, 0#8, 0#8, 0#8] ∧ State.reset.rvar = .lowres ∧
  State.reset.ckexp = 0#8 ∧ State.reset.ckact = 0#8 ∧ State.reset.ioerr = 0 ∧ hostValue State.reset 0x2#4 = 0 ∧
  State.reset.cfg.sense = .timed

/-- R230, R231 (D16): `rst` in any state abandons a running `READ`, records nothing and releases the line. -/
def Obligations.RstAbandonsTheRead : Prop :=
  ∀ (s : State) (q : List HostOp), s.host = .rst :: q →
    ∃ t, step s = .next t ∧
      t = { s with
        phase := 0x0#4, idx := 0#7, sub := .poll, cnt := 0#8, drv := true, pulse := t.pulse, byte := t.byte,
        data := #v[0#8, 0#8, 0#8, 0#8], rvar := .lowres, ckexp := 0#8, ckact := 0#8, ioerr := 0, done := false,
        ok := false, ecode := 0#2, host := q, draws := t.draws, trace := [] }

/-! ### Invariants -/

/-- R24, R30: the three invariants hold after reset. -/
def Obligations.ResetMeetsTheInvariants : Prop :=
  PositionInv State.reset ∧ ResultInv State.reset ∧ LineInv State.reset

/-- R11, R13, R14, R15 (D19): every step, of the host or of the receiver, keeps the position one the sequencer enters. -/
def Obligations.StepKeepsThePosition : Prop :=
  ∀ s t : State, PositionInv s → step s = .next t → PositionInv t

/-- R24, with R18, R19, R21 (D13, D14, D18): every step keeps the invariants of the status flags and of the result
registers. -/
def Obligations.StepKeepsTheResult : Prop :=
  ∀ s t : State, ResultInv s → step s = .next t → ResultInv t

/-- R120, R207, R249 (D3, D17): every step keeps the line commanded low in the start signal proper and released while the block
listens. -/
def Obligations.StepKeepsTheLine : Prop :=
  ∀ s t : State, LineInv s → step s = .next t → LineInv t

/-- R204, R222: from a position the sequencer enters, every step has a next state. -/
def Obligations.NothingStopsTheBlock : Prop :=
  ∀ s : State, PositionInv s → ∃ t, step s = .next t

/-! ### Whole-machine rules -/

/-- R163: the transitions, and that there are no others: no backward transition, no retry, no skip. The premise leaves
out an asserted `rst`, which is no transition of R163. -/
def Obligations.NoOtherTransitions : Prop :=
  ∀ s t : State, s.host.head? ≠ some .rst → step s = .next t →
    (t.phase = s.phase ∧ (s.phase = Phase.sample → t.idx = s.idx) ∧
      (¬ HostQuiet s ∨ s.phase = Phase.idle ∨ samplerPhase s.phase = true)) ∨
    (s.phase = Phase.idle ∧ s.host.head? = some (.write 0x0#4 0x01#8) ∧ t.phase = Phase.h1Set) ∨
    (1 ≤ s.phase.toNat ∧ s.phase.toNat ≤ 9 ∧ t.phase = s.phase + 1#4 ∧ (s.phase = Phase.sample → s.idx = 79#7) ∧
      (t.phase = Phase.sample → t.idx = 0#7) ∧
      (samplerPhase t.phase = true → t.cnt = 0#8 ∧ t.sub = .poll)) ∨
    (s.phase = Phase.sample ∧ s.idx.toNat < 79 ∧ t.phase = Phase.sample ∧ t.idx = s.idx + 1#7 ∧ t.cnt = 0#8 ∧
      t.sub = .poll) ∨
    (s.phase ≠ Phase.idle ∧ s.phase ≠ Phase.h1Hold ∧ s.phase ≠ Phase.h2Hold ∧ s.phase ≠ Phase.h3Hold ∧
      t.phase = Phase.idle ∧ t.done = true)

/-- R8, R51 (D1, D30): one step makes at most one call. A pin call uses exactly one answer: the script's next, or the free
value of the draw counter where the script has ended (log 4); a delay uses none. The record of calls starts anew only with
an acceptance, which makes no call and uses no answer, or with `rst`, which uses no answer and one draw, for the contents
of the frame buffer (log 9, 10: the model's choices). -/
def Obligations.OneCallPerStep : Prop :=
  ∀ s t : State, step s = .next t →
    (t.trace = s.trace ∧ t.pins = s.pins ∧ t.draws = s.draws) ∨
    (∃ c, t.trace = c :: s.trace ∧
      (c = .pinSetHigh ∨ c = .pinSetLow ∨ c = .pinRead →
        t.pins = s.pins.tail ∧ t.draws = if s.pins = [] then s.draws + 1 else s.draws) ∧
      (c ≠ .pinSetHigh → c ≠ .pinSetLow → c ≠ .pinRead → t.pins = s.pins ∧ t.draws = s.draws)) ∨
    (s.host.head? = some (.write 0x0#4 0x01#8) ∧ s.phase = Phase.idle ∧ t.phase = Phase.h1Set ∧ t.trace = [] ∧
      t.pins = s.pins ∧ t.draws = s.draws) ∨
    (s.host.head? = some .rst ∧ t.trace = [] ∧ t.pins = s.pins ∧ t.draws = s.draws + 1)

/-- R7, R205: a step of the receiver that ends a `READ` leaves exactly one result. -/
def Obligations.ReadEndsWithExactlyOneResult : Prop :=
  ∀ s t : State, ResultInv s → s.busy = true → s.host.head? ≠ some .rst → step s = .next t → t.busy = false →
    t.done = true ∧
    ((t.ok = true ∧ t.ecode = 0#2 ∧ t.result = some (.reading ⟨t.data, t.rvar⟩)) ∨
     (t.ok = false ∧ t.ecode = 1#2 ∧ t.result = some (.error (.io t.ioerr))) ∨
     (t.ok = false ∧ t.ecode = 2#2 ∧ t.result = some (.error .timeout)) ∨
     (t.ok = false ∧ t.ecode = 3#2 ∧ t.result = some (.error (.checksum t.ckexp t.ckact))))

/-- R185: a Reading appears only by decoding a frame whose checksum matched, is not changed while it is there, and
goes only with the next acceptance or a reset. The frame's bytes are read from `BYTE` after the step, where a match keeps
them by the model's choice (log 19). -/
def Obligations.ReadingExistsOnlyAfterAVerifiedFrame : Prop :=
  ∀ s t : State, ResultInv s → step s = .next t →
    (s.ok = false → t.ok = true →
      s.phase = Phase.decode ∧
      (t.byte[0].toNat + t.byte[1].toNat + t.byte[2].toNat + t.byte[3].toNat) % 256 = t.byte[4].toNat ∧
      t.data = #v[t.byte[0], t.byte[1], t.byte[2], t.byte[3]] ∧ t.rvar = s.cfg.variant) ∧
    (s.ok = true →
      (t.ok = true ∧ t.data = s.data ∧ t.rvar = s.rvar) ∨
      (t.ok = false ∧
        ((s.host.head? = some (.write 0x0#4 0x01#8) ∧ t.phase = Phase.h1Set) ∨ s.host.head? = some .rst)))

/-- R164, R51 (D18): between acceptance and the final step no host-visible register changes. -/
def Obligations.ResultRegistersRestDuringARead : Prop :=
  ∀ s t : State, s.busy = true → step s = .next t → t.busy = true →
    ∀ r : BitVec 4, hostValue t r = hostValue s r

/-- R22, R23, R107 (D11): no step writes a constant of the instance. -/
def Obligations.ConstantsAreNeverWritten : Prop :=
  ∀ s t : State, step s = .next t → t.cfg = s.cfg

/-- R12, R118: the receiver never reads `DRV`: another value of it changes nothing but itself. -/
def Obligations.DrvIsNeverRead : Prop :=
  ∀ (s t : State) (d : Bool), step s = .next t →
    ∃ d', step { s with drv := d } = .next { t with drv := d' }

/-- R16, R17 (93 U8): frame buffer contents outside the window of the running `READ` change nothing that a step makes
of the rest: neither the reset values of `PULSE` and `BYTE` (log 9) nor what an earlier `READ` left there is observable. -/
def Obligations.StaleFrameIsUnobservable : Prop :=
  ∀ s u t : State, SameButStaleFrame s u → step s = .next t →
    ∃ v, step u = .next v ∧ SameButStaleFrame t v ∧ ∀ r : BitVec 4, hostValue v r = hostValue t r

/-- R252, R9 (derived in the spec): every `READ` that is left to run ends within 41909 steps of its receiver (3 sets, 3
holds, 20992 polls, 20910 ticks, one final step). -/
def Obligations.EveryReadEnds : Prop :=
  ∀ s : State, PositionInv s → s.busy = true → s.host = [] →
    ∃ k t, k ≤ 41909 ∧ runSteps k s = .next t ∧ t.ended

/-- R160, R165, R172 (D14): from an idle block, a `READ` written and then left to run ends with exactly the result that
the blocking call `read()` computes from the answers, whether a Reading or an Error, and uses exactly its answers. -/
def Obligations.ReadRefinesTheBlockingCall : Prop :=
  ∀ (s : State) (res : ReadResult) (rest : List PinIn), s.phase = Phase.idle → s.host = [.write 0x0#4 0x01#8] →
    readRoutine s.cfg s.pins = some (res, rest) →
    ∃ k t, runSteps k s = .next t ∧ t.phase = Phase.idle ∧ t.host = [] ∧ t.result = some res ∧ t.pins = rest

/-- R250, R130 (derived in the spec): the requested delay and the calls of a `READ` that reaches `DECODE`. -/
def Obligations.CompletedReadTakesItsCounts : Prop :=
  ∀ (s : State) (m : Counts) (rest : List PinIn), s.phase = Phase.idle → s.host = [.write 0x0#4 0x01#8] →
    measure s.cfg s.pins = some (.ok m, rest) →
    ∃ k t, runSteps k s = .next t ∧ t.phase = Phase.decode ∧ t.pins = rest ∧
      t.pulse = pulsesOfCounts m.samples ∧
      t.time = 1000 + s.sdly.toNat + 40 + m.ackLow + m.ackHigh + m.samples.sum ∧
      setCount t.trace = 3 ∧ pollCount t.trace = 82 + m.ackLow + m.ackHigh + m.samples.sum ∧
      t.trace.length = 3 + pollCount t.trace + (3 + m.ackLow + m.ackHigh + m.samples.sum)
end

