-- ==== Sys2Proof/Laws/State.lean ====
section
/-! SUPPORT. One lemma per field per update of State, so that no proof unfolds a record update. -/

namespace Sys2Proof.Machine

@[simp] theorem popPin_cfg (s : State) : (popPin s).cfg = s.cfg := rfl
@[simp] theorem popPin_phase (s : State) : (popPin s).phase = s.phase := rfl
@[simp] theorem popPin_idx (s : State) : (popPin s).idx = s.idx := rfl
@[simp] theorem popPin_sub (s : State) : (popPin s).sub = s.sub := rfl
@[simp] theorem popPin_cnt (s : State) : (popPin s).cnt = s.cnt := rfl
@[simp] theorem popPin_drv (s : State) : (popPin s).drv = s.drv := rfl
@[simp] theorem popPin_pulse (s : State) : (popPin s).pulse = s.pulse := rfl
@[simp] theorem popPin_byte (s : State) : (popPin s).byte = s.byte := rfl
@[simp] theorem popPin_data (s : State) : (popPin s).data = s.data := rfl
@[simp] theorem popPin_rvar (s : State) : (popPin s).rvar = s.rvar := rfl
@[simp] theorem popPin_ckexp (s : State) : (popPin s).ckexp = s.ckexp := rfl
@[simp] theorem popPin_ckact (s : State) : (popPin s).ckact = s.ckact := rfl
@[simp] theorem popPin_ioerr (s : State) : (popPin s).ioerr = s.ioerr := rfl
@[simp] theorem popPin_done (s : State) : (popPin s).done = s.done := rfl
@[simp] theorem popPin_ok (s : State) : (popPin s).ok = s.ok := rfl
@[simp] theorem popPin_ecode (s : State) : (popPin s).ecode = s.ecode := rfl
@[simp] theorem popPin_pins (s : State) : (popPin s).pins = s.pins.tail := rfl
@[simp] theorem popPin_host (s : State) : (popPin s).host = s.host := rfl
@[simp] theorem popPin_draws (s : State) : (popPin s).draws = (if s.pins.isEmpty then s.draws + 1 else s.draws) := rfl
@[simp] theorem popPin_trace (s : State) : (popPin s).trace = s.trace := rfl
@[simp] theorem popPin_rdata (s : State) : (popPin s).rdata = s.rdata := rfl

@[simp] theorem recordCall_cfg (c : Primitive) (s : State) : (recordCall c s).cfg = s.cfg := rfl
@[simp] theorem recordCall_phase (c : Primitive) (s : State) : (recordCall c s).phase = s.phase := rfl
@[simp] theorem recordCall_idx (c : Primitive) (s : State) : (recordCall c s).idx = s.idx := rfl
@[simp] theorem recordCall_sub (c : Primitive) (s : State) : (recordCall c s).sub = s.sub := rfl
@[simp] theorem recordCall_cnt (c : Primitive) (s : State) : (recordCall c s).cnt = s.cnt := rfl
@[simp] theorem recordCall_drv (c : Primitive) (s : State) : (recordCall c s).drv = s.drv := rfl
@[simp] theorem recordCall_pulse (c : Primitive) (s : State) : (recordCall c s).pulse = s.pulse := rfl
@[simp] theorem recordCall_byte (c : Primitive) (s : State) : (recordCall c s).byte = s.byte := rfl
@[simp] theorem recordCall_data (c : Primitive) (s : State) : (recordCall c s).data = s.data := rfl
@[simp] theorem recordCall_rvar (c : Primitive) (s : State) : (recordCall c s).rvar = s.rvar := rfl
@[simp] theorem recordCall_ckexp (c : Primitive) (s : State) : (recordCall c s).ckexp = s.ckexp := rfl
@[simp] theorem recordCall_ckact (c : Primitive) (s : State) : (recordCall c s).ckact = s.ckact := rfl
@[simp] theorem recordCall_ioerr (c : Primitive) (s : State) : (recordCall c s).ioerr = s.ioerr := rfl
@[simp] theorem recordCall_done (c : Primitive) (s : State) : (recordCall c s).done = s.done := rfl
@[simp] theorem recordCall_ok (c : Primitive) (s : State) : (recordCall c s).ok = s.ok := rfl
@[simp] theorem recordCall_ecode (c : Primitive) (s : State) : (recordCall c s).ecode = s.ecode := rfl
@[simp] theorem recordCall_pins (c : Primitive) (s : State) : (recordCall c s).pins = s.pins := rfl
@[simp] theorem recordCall_host (c : Primitive) (s : State) : (recordCall c s).host = s.host := rfl
@[simp] theorem recordCall_draws (c : Primitive) (s : State) : (recordCall c s).draws = s.draws := rfl
@[simp] theorem recordCall_trace (c : Primitive) (s : State) : (recordCall c s).trace = c :: s.trace := rfl
@[simp] theorem recordCall_rdata (c : Primitive) (s : State) : (recordCall c s).rdata = s.rdata := rfl

@[simp] theorem goto_cfg (p : BitVec 4) (s : State) : (goto p s).cfg = s.cfg := rfl
@[simp] theorem goto_phase (p : BitVec 4) (s : State) : (goto p s).phase = p := rfl
@[simp] theorem goto_idx (p : BitVec 4) (s : State) : (goto p s).idx = s.idx := rfl
@[simp] theorem goto_sub (p : BitVec 4) (s : State) : (goto p s).sub = s.sub := rfl
@[simp] theorem goto_cnt (p : BitVec 4) (s : State) : (goto p s).cnt = s.cnt := rfl
@[simp] theorem goto_drv (p : BitVec 4) (s : State) : (goto p s).drv = s.drv := rfl
@[simp] theorem goto_pulse (p : BitVec 4) (s : State) : (goto p s).pulse = s.pulse := rfl
@[simp] theorem goto_byte (p : BitVec 4) (s : State) : (goto p s).byte = s.byte := rfl
@[simp] theorem goto_data (p : BitVec 4) (s : State) : (goto p s).data = s.data := rfl
@[simp] theorem goto_rvar (p : BitVec 4) (s : State) : (goto p s).rvar = s.rvar := rfl
@[simp] theorem goto_ckexp (p : BitVec 4) (s : State) : (goto p s).ckexp = s.ckexp := rfl
@[simp] theorem goto_ckact (p : BitVec 4) (s : State) : (goto p s).ckact = s.ckact := rfl
@[simp] theorem goto_ioerr (p : BitVec 4) (s : State) : (goto p s).ioerr = s.ioerr := rfl
@[simp] theorem goto_done (p : BitVec 4) (s : State) : (goto p s).done = s.done := rfl
@[simp] theorem goto_ok (p : BitVec 4) (s : State) : (goto p s).ok = s.ok := rfl
@[simp] theorem goto_ecode (p : BitVec 4) (s : State) : (goto p s).ecode = s.ecode := rfl
@[simp] theorem goto_pins (p : BitVec 4) (s : State) : (goto p s).pins = s.pins := rfl
@[simp] theorem goto_host (p : BitVec 4) (s : State) : (goto p s).host = s.host := rfl
@[simp] theorem goto_draws (p : BitVec 4) (s : State) : (goto p s).draws = s.draws := rfl
@[simp] theorem goto_trace (p : BitVec 4) (s : State) : (goto p s).trace = s.trace := rfl
@[simp] theorem goto_rdata (p : BitVec 4) (s : State) : (goto p s).rdata = s.rdata := rfl

@[simp] theorem endRead_cfg (s : State) : (endRead s).cfg = s.cfg := rfl
@[simp] theorem endRead_phase (s : State) : (endRead s).phase = Phase.idle := rfl
@[simp] theorem endRead_idx (s : State) : (endRead s).idx = s.idx := rfl
@[simp] theorem endRead_sub (s : State) : (endRead s).sub = s.sub := rfl
@[simp] theorem endRead_cnt (s : State) : (endRead s).cnt = s.cnt := rfl
@[simp] theorem endRead_drv (s : State) : (endRead s).drv = s.drv := rfl
@[simp] theorem endRead_pulse (s : State) : (endRead s).pulse = s.pulse := rfl
@[simp] theorem endRead_byte (s : State) : (endRead s).byte = s.byte := rfl
@[simp] theorem endRead_data (s : State) : (endRead s).data = s.data := rfl
@[simp] theorem endRead_rvar (s : State) : (endRead s).rvar = s.rvar := rfl
@[simp] theorem endRead_ckexp (s : State) : (endRead s).ckexp = s.ckexp := rfl
@[simp] theorem endRead_ckact (s : State) : (endRead s).ckact = s.ckact := rfl
@[simp] theorem endRead_ioerr (s : State) : (endRead s).ioerr = s.ioerr := rfl
@[simp] theorem endRead_done (s : State) : (endRead s).done = true := rfl
@[simp] theorem endRead_ok (s : State) : (endRead s).ok = s.ok := rfl
@[simp] theorem endRead_ecode (s : State) : (endRead s).ecode = s.ecode := rfl
@[simp] theorem endRead_pins (s : State) : (endRead s).pins = s.pins := rfl
@[simp] theorem endRead_host (s : State) : (endRead s).host = s.host := rfl
@[simp] theorem endRead_draws (s : State) : (endRead s).draws = s.draws := rfl
@[simp] theorem endRead_trace (s : State) : (endRead s).trace = s.trace := rfl
@[simp] theorem endRead_rdata (s : State) : (endRead s).rdata = s.rdata := rfl

@[simp] theorem enterInvocation_cfg (p : BitVec 4) (s : State) : (enterInvocation p s).cfg = s.cfg := rfl
@[simp] theorem enterInvocation_phase (p : BitVec 4) (s : State) : (enterInvocation p s).phase = p := rfl
@[simp] theorem enterInvocation_idx (p : BitVec 4) (s : State) : (enterInvocation p s).idx = s.idx := rfl
@[simp] theorem enterInvocation_sub (p : BitVec 4) (s : State) : (enterInvocation p s).sub = .poll := rfl
@[simp] theorem enterInvocation_cnt (p : BitVec 4) (s : State) : (enterInvocation p s).cnt = 0#8 := rfl
@[simp] theorem enterInvocation_drv (p : BitVec 4) (s : State) : (enterInvocation p s).drv = s.drv := rfl
@[simp] theorem enterInvocation_pulse (p : BitVec 4) (s : State) : (enterInvocation p s).pulse = s.pulse := rfl
@[simp] theorem enterInvocation_byte (p : BitVec 4) (s : State) : (enterInvocation p s).byte = s.byte := rfl
@[simp] theorem enterInvocation_data (p : BitVec 4) (s : State) : (enterInvocation p s).data = s.data := rfl
@[simp] theorem enterInvocation_rvar (p : BitVec 4) (s : State) : (enterInvocation p s).rvar = s.rvar := rfl
@[simp] theorem enterInvocation_ckexp (p : BitVec 4) (s : State) : (enterInvocation p s).ckexp = s.ckexp := rfl
@[simp] theorem enterInvocation_ckact (p : BitVec 4) (s : State) : (enterInvocation p s).ckact = s.ckact := rfl
@[simp] theorem enterInvocation_ioerr (p : BitVec 4) (s : State) : (enterInvocation p s).ioerr = s.ioerr := rfl
@[simp] theorem enterInvocation_done (p : BitVec 4) (s : State) : (enterInvocation p s).done = s.done := rfl
@[simp] theorem enterInvocation_ok (p : BitVec 4) (s : State) : (enterInvocation p s).ok = s.ok := rfl
@[simp] theorem enterInvocation_ecode (p : BitVec 4) (s : State) : (enterInvocation p s).ecode = s.ecode := rfl
@[simp] theorem enterInvocation_pins (p : BitVec 4) (s : State) : (enterInvocation p s).pins = s.pins := rfl
@[simp] theorem enterInvocation_host (p : BitVec 4) (s : State) : (enterInvocation p s).host = s.host := rfl
@[simp] theorem enterInvocation_draws (p : BitVec 4) (s : State) : (enterInvocation p s).draws = s.draws := rfl
@[simp] theorem enterInvocation_trace (p : BitVec 4) (s : State) : (enterInvocation p s).trace = s.trace := rfl
@[simp] theorem enterInvocation_rdata (p : BitVec 4) (s : State) : (enterInvocation p s).rdata = s.rdata := rfl

@[simp] theorem enterSampling_cfg (s : State) : (enterSampling s).cfg = s.cfg := rfl
@[simp] theorem enterSampling_phase (s : State) : (enterSampling s).phase = Phase.sample := rfl
@[simp] theorem enterSampling_idx (s : State) : (enterSampling s).idx = 0#7 := rfl
@[simp] theorem enterSampling_sub (s : State) : (enterSampling s).sub = .poll := rfl
@[simp] theorem enterSampling_cnt (s : State) : (enterSampling s).cnt = 0#8 := rfl
@[simp] theorem enterSampling_drv (s : State) : (enterSampling s).drv = s.drv := rfl
@[simp] theorem enterSampling_pulse (s : State) : (enterSampling s).pulse = s.pulse := rfl
@[simp] theorem enterSampling_byte (s : State) : (enterSampling s).byte = s.byte := rfl
@[simp] theorem enterSampling_data (s : State) : (enterSampling s).data = s.data := rfl
@[simp] theorem enterSampling_rvar (s : State) : (enterSampling s).rvar = s.rvar := rfl
@[simp] theorem enterSampling_ckexp (s : State) : (enterSampling s).ckexp = s.ckexp := rfl
@[simp] theorem enterSampling_ckact (s : State) : (enterSampling s).ckact = s.ckact := rfl
@[simp] theorem enterSampling_ioerr (s : State) : (enterSampling s).ioerr = s.ioerr := rfl
@[simp] theorem enterSampling_done (s : State) : (enterSampling s).done = s.done := rfl
@[simp] theorem enterSampling_ok (s : State) : (enterSampling s).ok = s.ok := rfl
@[simp] theorem enterSampling_ecode (s : State) : (enterSampling s).ecode = s.ecode := rfl
@[simp] theorem enterSampling_pins (s : State) : (enterSampling s).pins = s.pins := rfl
@[simp] theorem enterSampling_host (s : State) : (enterSampling s).host = s.host := rfl
@[simp] theorem enterSampling_draws (s : State) : (enterSampling s).draws = s.draws := rfl
@[simp] theorem enterSampling_trace (s : State) : (enterSampling s).trace = s.trace := rfl
@[simp] theorem enterSampling_rdata (s : State) : (enterSampling s).rdata = s.rdata := rfl

@[simp] theorem hostRead_cfg (r : BitVec 4) (s : State) : (hostRead r s).cfg = s.cfg := rfl
@[simp] theorem hostRead_phase (r : BitVec 4) (s : State) : (hostRead r s).phase = s.phase := rfl
@[simp] theorem hostRead_idx (r : BitVec 4) (s : State) : (hostRead r s).idx = s.idx := rfl
@[simp] theorem hostRead_sub (r : BitVec 4) (s : State) : (hostRead r s).sub = s.sub := rfl
@[simp] theorem hostRead_cnt (r : BitVec 4) (s : State) : (hostRead r s).cnt = s.cnt := rfl
@[simp] theorem hostRead_drv (r : BitVec 4) (s : State) : (hostRead r s).drv = s.drv := rfl
@[simp] theorem hostRead_pulse (r : BitVec 4) (s : State) : (hostRead r s).pulse = s.pulse := rfl
@[simp] theorem hostRead_byte (r : BitVec 4) (s : State) : (hostRead r s).byte = s.byte := rfl
@[simp] theorem hostRead_data (r : BitVec 4) (s : State) : (hostRead r s).data = s.data := rfl
@[simp] theorem hostRead_rvar (r : BitVec 4) (s : State) : (hostRead r s).rvar = s.rvar := rfl
@[simp] theorem hostRead_ckexp (r : BitVec 4) (s : State) : (hostRead r s).ckexp = s.ckexp := rfl
@[simp] theorem hostRead_ckact (r : BitVec 4) (s : State) : (hostRead r s).ckact = s.ckact := rfl
@[simp] theorem hostRead_ioerr (r : BitVec 4) (s : State) : (hostRead r s).ioerr = s.ioerr := rfl
@[simp] theorem hostRead_done (r : BitVec 4) (s : State) : (hostRead r s).done = s.done := rfl
@[simp] theorem hostRead_ok (r : BitVec 4) (s : State) : (hostRead r s).ok = s.ok := rfl
@[simp] theorem hostRead_ecode (r : BitVec 4) (s : State) : (hostRead r s).ecode = s.ecode := rfl
@[simp] theorem hostRead_pins (r : BitVec 4) (s : State) : (hostRead r s).pins = s.pins := rfl
@[simp] theorem hostRead_host (r : BitVec 4) (s : State) : (hostRead r s).host = s.host := rfl
@[simp] theorem hostRead_draws (r : BitVec 4) (s : State) : (hostRead r s).draws = s.draws := rfl
@[simp] theorem hostRead_trace (r : BitVec 4) (s : State) : (hostRead r s).trace = s.trace := rfl
@[simp] theorem hostRead_rdata (r : BitVec 4) (s : State) : (hostRead r s).rdata = hostValue s r := rfl

@[simp] theorem popHost_cfg (s : State) : (popHost s).cfg = s.cfg := rfl
@[simp] theorem popHost_phase (s : State) : (popHost s).phase = s.phase := rfl
@[simp] theorem popHost_idx (s : State) : (popHost s).idx = s.idx := rfl
@[simp] theorem popHost_sub (s : State) : (popHost s).sub = s.sub := rfl
@[simp] theorem popHost_cnt (s : State) : (popHost s).cnt = s.cnt := rfl
@[simp] theorem popHost_drv (s : State) : (popHost s).drv = s.drv := rfl
@[simp] theorem popHost_pulse (s : State) : (popHost s).pulse = s.pulse := rfl
@[simp] theorem popHost_byte (s : State) : (popHost s).byte = s.byte := rfl
@[simp] theorem popHost_data (s : State) : (popHost s).data = s.data := rfl
@[simp] theorem popHost_rvar (s : State) : (popHost s).rvar = s.rvar := rfl
@[simp] theorem popHost_ckexp (s : State) : (popHost s).ckexp = s.ckexp := rfl
@[simp] theorem popHost_ckact (s : State) : (popHost s).ckact = s.ckact := rfl
@[simp] theorem popHost_ioerr (s : State) : (popHost s).ioerr = s.ioerr := rfl
@[simp] theorem popHost_done (s : State) : (popHost s).done = s.done := rfl
@[simp] theorem popHost_ok (s : State) : (popHost s).ok = s.ok := rfl
@[simp] theorem popHost_ecode (s : State) : (popHost s).ecode = s.ecode := rfl
@[simp] theorem popHost_pins (s : State) : (popHost s).pins = s.pins := rfl
@[simp] theorem popHost_host (s : State) : (popHost s).host = s.host.tail := rfl
@[simp] theorem popHost_draws (s : State) : (popHost s).draws = s.draws := rfl
@[simp] theorem popHost_trace (s : State) : (popHost s).trace = s.trace := rfl
@[simp] theorem popHost_rdata (s : State) : (popHost s).rdata = s.rdata := rfl

@[simp] theorem acceptRead_cfg (s : State) : (acceptRead s).cfg = s.cfg := rfl
@[simp] theorem acceptRead_phase (s : State) : (acceptRead s).phase = Phase.h1Set := rfl
@[simp] theorem acceptRead_idx (s : State) : (acceptRead s).idx = 0#7 := rfl
@[simp] theorem acceptRead_sub (s : State) : (acceptRead s).sub = .poll := rfl
@[simp] theorem acceptRead_cnt (s : State) : (acceptRead s).cnt = 0#8 := rfl
@[simp] theorem acceptRead_drv (s : State) : (acceptRead s).drv = s.drv := rfl
@[simp] theorem acceptRead_pulse (s : State) : (acceptRead s).pulse = s.pulse := rfl
@[simp] theorem acceptRead_byte (s : State) : (acceptRead s).byte = s.byte := rfl
@[simp] theorem acceptRead_data (s : State) : (acceptRead s).data = Vector.replicate 4 0#8 := rfl
@[simp] theorem acceptRead_rvar (s : State) : (acceptRead s).rvar = .lowres := rfl
@[simp] theorem acceptRead_ckexp (s : State) : (acceptRead s).ckexp = 0#8 := rfl
@[simp] theorem acceptRead_ckact (s : State) : (acceptRead s).ckact = 0#8 := rfl
@[simp] theorem acceptRead_ioerr (s : State) : (acceptRead s).ioerr = 0 := rfl
@[simp] theorem acceptRead_done (s : State) : (acceptRead s).done = false := rfl
@[simp] theorem acceptRead_ok (s : State) : (acceptRead s).ok = false := rfl
@[simp] theorem acceptRead_ecode (s : State) : (acceptRead s).ecode = 0#2 := rfl
@[simp] theorem acceptRead_pins (s : State) : (acceptRead s).pins = s.pins := rfl
@[simp] theorem acceptRead_host (s : State) : (acceptRead s).host = s.host := rfl
@[simp] theorem acceptRead_draws (s : State) : (acceptRead s).draws = s.draws := rfl
@[simp] theorem acceptRead_trace (s : State) : (acceptRead s).trace = [] := rfl
@[simp] theorem acceptRead_rdata (s : State) : (acceptRead s).rdata = s.rdata := rfl

@[simp] theorem raise_cfg (x : ReadError) (s : State) : (raise x s).cfg = s.cfg := by cases x <;> rfl
@[simp] theorem raise_phase (x : ReadError) (s : State) : (raise x s).phase = Phase.idle := rfl
@[simp] theorem raise_idx (x : ReadError) (s : State) : (raise x s).idx = s.idx := by cases x <;> rfl
@[simp] theorem raise_sub (x : ReadError) (s : State) : (raise x s).sub = s.sub := by cases x <;> rfl
@[simp] theorem raise_cnt (x : ReadError) (s : State) : (raise x s).cnt = s.cnt := by cases x <;> rfl
@[simp] theorem raise_drv (x : ReadError) (s : State) : (raise x s).drv = s.drv := by cases x <;> rfl
@[simp] theorem raise_pulse (x : ReadError) (s : State) : (raise x s).pulse = s.pulse := by cases x <;> rfl
@[simp] theorem raise_byte (x : ReadError) (s : State) : (raise x s).byte = s.byte := by cases x <;> rfl
@[simp] theorem raise_data (x : ReadError) (s : State) : (raise x s).data = s.data := by cases x <;> rfl
@[simp] theorem raise_rvar (x : ReadError) (s : State) : (raise x s).rvar = s.rvar := by cases x <;> rfl
@[simp] theorem raise_done (x : ReadError) (s : State) : (raise x s).done = true := rfl
@[simp] theorem raise_ok (x : ReadError) (s : State) : (raise x s).ok = s.ok := by cases x <;> rfl
@[simp] theorem raise_ecode (x : ReadError) (s : State) : (raise x s).ecode = x.code := by cases x <;> rfl
@[simp] theorem raise_pins (x : ReadError) (s : State) : (raise x s).pins = s.pins := by cases x <;> rfl
@[simp] theorem raise_host (x : ReadError) (s : State) : (raise x s).host = s.host := by cases x <;> rfl
@[simp] theorem raise_draws (x : ReadError) (s : State) : (raise x s).draws = s.draws := by cases x <;> rfl
@[simp] theorem raise_trace (x : ReadError) (s : State) : (raise x s).trace = s.trace := by cases x <;> rfl
@[simp] theorem raise_rdata (x : ReadError) (s : State) : (raise x s).rdata = s.rdata := by cases x <;> rfl
@[simp] theorem raise_io_ioerr (e : Nat) (s : State) : (raise (.io e) s).ioerr = e := rfl
@[simp] theorem raise_io_ckexp (e : Nat) (s : State) : (raise (.io e) s).ckexp = s.ckexp := rfl
@[simp] theorem raise_io_ckact (e : Nat) (s : State) : (raise (.io e) s).ckact = s.ckact := rfl
@[simp] theorem raise_timeout_ioerr (s : State) : (raise .timeout s).ioerr = s.ioerr := rfl
@[simp] theorem raise_timeout_ckexp (s : State) : (raise .timeout s).ckexp = s.ckexp := rfl
@[simp] theorem raise_timeout_ckact (s : State) : (raise .timeout s).ckact = s.ckact := rfl
@[simp] theorem raise_checksum_ioerr (a b : Byte) (s : State) : (raise (.checksum a b) s).ioerr = s.ioerr := rfl
@[simp] theorem raise_checksum_ckexp (a b : Byte) (s : State) : (raise (.checksum a b) s).ckexp = a := rfl
@[simp] theorem raise_checksum_ckact (a b : Byte) (s : State) : (raise (.checksum a b) s).ckact = b := rfl

@[simp] theorem assertReset_cfg (s : State) : (assertReset s).cfg = s.cfg := rfl
@[simp] theorem assertReset_phase (s : State) : (assertReset s).phase = Phase.idle := rfl
@[simp] theorem assertReset_idx (s : State) : (assertReset s).idx = 0#7 := rfl
@[simp] theorem assertReset_sub (s : State) : (assertReset s).sub = .poll := rfl
@[simp] theorem assertReset_cnt (s : State) : (assertReset s).cnt = 0#8 := rfl
@[simp] theorem assertReset_drv (s : State) : (assertReset s).drv = true := rfl
@[simp] theorem assertReset_pulse (s : State) : (assertReset s).pulse = Config.freePulses s.draws := rfl
@[simp] theorem assertReset_byte (s : State) : (assertReset s).byte = Config.freeBytes s.draws := rfl
@[simp] theorem assertReset_data (s : State) : (assertReset s).data = Vector.replicate 4 0#8 := rfl
@[simp] theorem assertReset_rvar (s : State) : (assertReset s).rvar = .lowres := rfl
@[simp] theorem assertReset_ckexp (s : State) : (assertReset s).ckexp = 0#8 := rfl
@[simp] theorem assertReset_ckact (s : State) : (assertReset s).ckact = 0#8 := rfl
@[simp] theorem assertReset_ioerr (s : State) : (assertReset s).ioerr = 0 := rfl
@[simp] theorem assertReset_done (s : State) : (assertReset s).done = false := rfl
@[simp] theorem assertReset_ok (s : State) : (assertReset s).ok = false := rfl
@[simp] theorem assertReset_ecode (s : State) : (assertReset s).ecode = 0#2 := rfl
@[simp] theorem assertReset_pins (s : State) : (assertReset s).pins = s.pins := rfl
@[simp] theorem assertReset_host (s : State) : (assertReset s).host = s.host := rfl
@[simp] theorem assertReset_draws (s : State) : (assertReset s).draws = s.draws + 1 := rfl
@[simp] theorem assertReset_trace (s : State) : (assertReset s).trace = [] := rfl
@[simp] theorem assertReset_rdata (s : State) : (assertReset s).rdata = s.rdata := rfl

end Sys2Proof.Machine
end

