-- ==== Sys2Proof/Laws/Ops.lean ====
section
/-! SUPPORT. What each shared operation can do, said once: proofs cite these and unfold the operations no further. -/

namespace Sys2Proof.Machine

/-! ### Answers -/

theorem pinAnswer_script {s : State} {p : PinIn} {ps : List PinIn} (h : s.pins = p :: ps) :
    pinAnswer s = clipFault s.cfg.ioerrW p := by
  simp [pinAnswer, h]

theorem pinAnswer_free {s : State} (h : s.pins = []) :
    pinAnswer s = clipFault s.cfg.ioerrW (Config.freePin s.draws) := by
  simp [pinAnswer, h]

theorem popPin_script {s : State} {p : PinIn} {ps : List PinIn} (h : s.pins = p :: ps) :
    popPin s = { s with pins := ps } := by
  simp [popPin, h]

/-- R21: an error value is `IOERR_W` bits wide. -/
theorem pinAnswer_fault_lt {s : State} {e : Nat} (h : (pinAnswer s).fault = some e) : e < 2 ^ s.cfg.ioerrW := by
  simp only [pinAnswer, clipFault, Option.map_eq_some_iff] at h
  obtain ⟨a, -, rfl⟩ := h
  exact Nat.mod_lt _ (Nat.two_pow_pos _)

/-! ### Primitives -/

/-- R90, R91: a set succeeds or raises `Io`. -/
theorem setPin_cases (l : Level) (next : State → State) (s : State) :
    ((pinAnswer s).fault = none ∧
      setPin l next s
        = next { recordCall (if l then .pinSetHigh else .pinSetLow) (popPin s) with drv := l }) ∨
    (∃ e d, (pinAnswer s).fault = some e ∧ (d = l ∨ d = s.drv) ∧
      setPin l next s
        = raise (.io e) { recordCall (if l then .pinSetHigh else .pinSetLow) (popPin s) with drv := d }) := by
  unfold setPin
  cases h : (pinAnswer s).fault with
  | none => exact .inl ⟨rfl, by simp⟩
  | some e =>
    refine .inr ⟨e, if (pinAnswer s).took then l else s.drv, rfl, ?_, by simp⟩
    split <;> simp

/-- R92: a read gives its level or raises `Io`. -/
theorem rdlv_cases (next : Level → State → State) (s : State) :
    ((pinAnswer s).fault = none ∧
      rdlv next s = next (pinAnswer s).level (recordCall .pinRead (popPin s))) ∨
    (∃ e, (pinAnswer s).fault = some e ∧ rdlv next s = raise (.io e) (recordCall .pinRead (popPin s))) := by
  unfold rdlv
  cases h : (pinAnswer s).fault with
  | none => exact .inl ⟨rfl, by simp⟩
  | some e => exact .inr ⟨e, rfl, by simp⟩

/-! ### The sampler -/

/-- R116, the row `WAIT`. -/
theorem pulseStep_wait {s : State} (E : Level) (f : State → State) (h : s.sub = .wait) :
    pulseStep E f s = { recordCall (.delayUs 1#16) s with cnt := s.cnt + 1#8, sub := .poll } := by
  simp [pulseStep, h, dlyus, pollUs]

/-- R116, the row `POLL`: the four outcomes of a poll. -/
theorem pulseStep_poll {s : State} (E : Level) (f : State → State) (h : s.sub = .poll) :
    (∃ e, (pinAnswer s).fault = some e ∧ pulseStep E f s = raise (.io e) (recordCall .pinRead (popPin s))) ∨
    ((pinAnswer s).fault = none ∧ (pinAnswer s).level = E ∧ pulseStep E f s = f (recordCall .pinRead (popPin s))) ∨
    ((pinAnswer s).fault = none ∧ (pinAnswer s).level ≠ E ∧ s.cnt = 255#8 ∧
      pulseStep E f s = raise .timeout (recordCall .pinRead (popPin s))) ∨
    ((pinAnswer s).fault = none ∧ (pinAnswer s).level ≠ E ∧ s.cnt ≠ 255#8 ∧
      pulseStep E f s = { recordCall .pinRead (popPin s) with sub := .wait }) := by
  simp only [pulseStep, h]
  rcases rdlv_cases (judgePoll E f) s with ⟨hf, he⟩ | ⟨e, hf, he⟩
  · rw [he]
    by_cases hl : (pinAnswer s).level = E
    · exact .inr (.inl ⟨hf, hl, by simp [judgePoll, hl]⟩)
    · by_cases hc : s.cnt = 255#8
      · exact .inr (.inr (.inl ⟨hf, hl, hc, by simp [judgePoll, hl, hc, maxTicks]⟩))
      · exact .inr (.inr (.inr ⟨hf, hl, hc, by simp [judgePoll, hl, hc, maxTicks]⟩))
  · exact .inl ⟨e, hf, he⟩

/-- R137: after the last invocation `DECODE`, else the next invocation. -/
theorem advanceSample_cases (n : BitVec 7) (s : State) :
    (n = 79#7 ∧ advanceSample n s = { s with phase := Phase.decode }) ∨
    (n ≠ 79#7 ∧
      advanceSample n s = { s with phase := Phase.sample, idx := n + 1#7, cnt := 0#8, sub := .poll }) := by
  by_cases h : n = 79#7
  · exact .inl ⟨h, by simp [advanceSample, lastIdx, h, goto]⟩
  · exact .inr ⟨h, by simp [advanceSample, lastIdx, h, enterInvocation]⟩

/-! ### The decoder -/

/-- R155: the complete decision table of the decoder. -/
theorem judgeFrame_cases (s : State) :
    (expectedChecksum s.byte = actualChecksum s.byte ∧ judgeFrame s = publish s) ∨
    (expectedChecksum s.byte ≠ actualChecksum s.byte ∧
      judgeFrame s = raise (.checksum (expectedChecksum s.byte) (actualChecksum s.byte)) s) := by
  by_cases h : expectedChecksum s.byte = actualChecksum s.byte
  · exact .inl ⟨h, by simp [judgeFrame, h]⟩
  · exact .inr ⟨h, by simp [judgeFrame, h]⟩

end Sys2Proof.Machine
end

