-- ==== Sys2Proof/Laws/Result.lean ====
section
/-! SUPPORT. The result registers after an error and after a Reading (R165). -/

namespace Sys2Proof.Machine

/-- R206: the registers hold the error that was raised. -/
theorem raise_error (x : ReadError) (s : State) : (raise x s).error = some x := by
  cases x <;> rfl

/-- R165, R206: after an error `read()` has returned that error. -/
theorem raise_result (x : ReadError) {s : State} (h : s.ok = false) : (raise x s).result = some (.error x) := by
  simp [State.result, h, raise_error]

/-- R151, R165: after a match `read()` has returned the Reading. -/
theorem publish_result (s : State) :
    (publish s).result = some (.reading ⟨dataBytes s.byte, s.cfg.variant⟩) := rfl

end Sys2Proof.Machine
end

