-- ==== Sys2Proof/Laws/Step.lean ====
section
/-! SUPPORT. What one step can do: the inversion lemma of `step`, and which word each position stands for. -/

namespace Sys2Proof.Machine

/-- A step runs an operation or settles a host access. -/
theorem step_cases {s t : State} (h : step s = .next t) :
    (∃ i u, fetch s = .run i u ∧ exec i u = .next t) ∨ fetch s = .settle t := by
  unfold step at h
  cases hf : fetch s with
  | run i u => rw [hf] at h; exact .inl ⟨i, u, rfl, h⟩
  | settle u => rw [hf] at h; cases h; exact .inr rfl
  | stuck w => rw [hf] at h; cases h

theorem fetch_quiet {s : State} (h : HostQuiet s) : fetch s = receiverMove (popHost s) := by
  unfold fetch popHost
  rcases s with ⟨⟩
  rename_i host _ _ _
  cases host with
  | nil => rfl
  | cons o q => simp_all [HostQuiet]

/-- The moves of the host that are no quiet move. -/
theorem fetch_host {s : State} (h : ¬ HostQuiet s) :
    (∃ r v, s.host.head? = some (.write r v) ∧ fetch s = hostWrite r v (popHost s)) ∨
    (∃ r, s.host.head? = some (.read r) ∧ fetch s = .settle (hostRead r (popHost s))) ∨
    (s.host.head? = some .rst ∧ fetch s = .settle (assertReset (popHost s))) := by
  unfold fetch popHost
  rcases s with ⟨⟩
  rename_i host _ _ _
  cases host with
  | nil => simp [HostQuiet] at h
  | cons o q => cases o <;> simp_all [HostQuiet]

/-- R25, R65, R70: only 0x01 written to `CMD` runs anything. -/
theorem hostWrite_cases (r : BitVec 4) (v : BitVec 8) (s : State) :
    (r = 0#4 ∧ v = 1#8 ∧ hostWrite r v s = .run .read s) ∨
    (¬ (r = 0#4 ∧ v = 1#8) ∧ hostWrite r v s = .settle s) := by
  by_cases hr : r = 0#4
  · by_cases hv : v = 1#8
    · exact .inl ⟨hr, hv, by simp [hostWrite, hr, hv, decodeWord, decodeCmd]⟩
    · exact .inr ⟨by simp [hv], by simp [hostWrite, hr, hv, decodeWord, decodeCmd]⟩
  · exact .inr ⟨by simp [hr], by simp [hostWrite, hr]⟩

/-! ### The word of a position -/

theorem seqPhase_append (p : BitVec 4) (n : BitVec 7) : seqPhase (p ++ n) = p := by
  ext i hi
  show ((p ++ n : BitVec (4 + 7)).extractLsb' 7 4)[i] = _
  simp only [BitVec.getElem_extractLsb', BitVec.getLsbD_append]
  simp [BitVec.getLsbD_eq_getElem hi]

theorem seqIndex_append (p : BitVec 4) (n : BitVec 7) : seqIndex (p ++ n) = n := by
  ext i hi
  show ((p ++ n : BitVec (4 + 7)).extractLsb' 0 7)[i] = _
  simp only [BitVec.getElem_extractLsb', BitVec.getLsbD_append]
  simp [hi]

theorem seqPhase_seqWord (s : State) : seqPhase s.seqWord = s.phase := seqPhase_append _ _

theorem seqIndex_seqWord (s : State) :
    seqIndex s.seqWord = s.indexField := seqIndex_append _ _

/-- In `SAMPLE` the index field is the register. -/
theorem indexField_sample {s : State} (h : s.phase = Phase.sample) : s.indexField = s.idx := by
  simp [State.indexField, h]

/-- Where the index field is 0: `IDX` is 0, or it is what the sampling loop left there (log 7). -/
theorem indexField_eq_zero_iff (s : State) :
    s.indexField = 0#7 ↔
      s.idx = 0#7 ∨ (s.phase = Phase.idle ∧ s.idx.toNat < 80) ∨ (s.phase = Phase.decode ∧ s.idx = 79#7) := by
  unfold State.indexField
  by_cases h : (s.phase = Phase.idle ∧ s.idx.toNat < 80) ∨ (s.phase = Phase.decode ∧ s.idx = lastIdx)
  · rw [if_pos h]; exact ⟨fun _ => .inr h, fun _ => rfl⟩
  · rw [if_neg h]; exact ⟨.inl, fun h' => h'.resolve_right h⟩

theorem receiverMove_sample {s : State} (h : s.phase = Phase.sample) (hn : s.idx.toNat < 80) :
    receiverMove s = .run (.sample (idxPulse s.idx) (idxHalf s.idx)) s := by
  simp [receiverMove, decodeWord, decodeSeq, seqPhase_seqWord, seqIndex_seqWord, indexField_sample h, h, hn]

theorem receiverMove_plain {s : State} {i : Instr} (h : plainPhase s.phase = some i) (hx : s.indexField = 0#7) :
    receiverMove s = .run i s := by
  have hs : s.phase ≠ Phase.sample := by
    intro hs
    rw [hs, (by decide : plainPhase Phase.sample = none)] at h
    cases h
  simp [receiverMove, decodeWord, decodeSeq, seqPhase_seqWord, seqIndex_seqWord, h, hs, hx]

/-- The operation of each phase that has no operand (R69). -/
theorem plainPhase_cases {p : BitVec 4} {i : Instr} (h : plainPhase p = some i) :
    (p = Phase.idle ∧ i = .idle) ∨ (p = Phase.h1Set ∧ i = .h1Set) ∨ (p = Phase.h1Hold ∧ i = .h1Hold) ∨
    (p = Phase.h2Set ∧ i = .h2Set) ∨ (p = Phase.h2Hold ∧ i = .h2Hold) ∨ (p = Phase.h3Set ∧ i = .h3Set) ∨
    (p = Phase.h3Hold ∧ i = .h3Hold) ∨ (p = Phase.ackLow ∧ i = .ackLow) ∨ (p = Phase.ackHigh ∧ i = .ackHigh) ∨
    (p = Phase.decode ∧ i = .decode) := by
  have key : ∀ q : BitVec 4, ∀ j, plainPhase q = some j →
      (q = Phase.idle ∧ j = .idle) ∨ (q = Phase.h1Set ∧ j = .h1Set) ∨ (q = Phase.h1Hold ∧ j = .h1Hold) ∨
      (q = Phase.h2Set ∧ j = .h2Set) ∨ (q = Phase.h2Hold ∧ j = .h2Hold) ∨ (q = Phase.h3Set ∧ j = .h3Set) ∨
      (q = Phase.h3Hold ∧ j = .h3Hold) ∨ (q = Phase.ackLow ∧ j = .ackLow) ∨
      (q = Phase.ackHigh ∧ j = .ackHigh) ∨ (q = Phase.decode ∧ j = .decode) := by
    intro q j hq
    unfold plainPhase at hq
    repeat' split at hq
    all_goals first | (cases hq; simp_all) | cases hq
  exact key p i h

/-- What the receiver's move is: the operation of the position, in the state it stands in. -/
theorem receiverMove_cases {s u : State} {i : Instr} (h : receiverMove s = .run i u) :
    u = s ∧ ((s.phase = Phase.sample ∧ s.idx.toNat < 80 ∧ i = .sample (idxPulse s.idx) (idxHalf s.idx)) ∨
      (plainPhase s.phase = some i ∧ s.indexField = 0#7)) := by
  simp only [receiverMove, decodeWord, decodeSeq, seqPhase_seqWord, seqIndex_seqWord] at h
  by_cases hs : s.phase = Phase.sample
  · simp only [hs, if_true, indexField_sample hs] at h
    by_cases hn : s.idx.toNat < 80
    · rw [if_pos hn] at h; cases h; exact ⟨rfl, .inl ⟨hs, hn, rfl⟩⟩
    · rw [if_neg hn] at h; cases h
  · simp only [hs, if_false] at h
    cases hp : plainPhase s.phase with
    | none => simp [hp] at h
    | some j =>
      by_cases hx : s.indexField = 0#7
      · simp [hp, hx] at h; obtain ⟨rfl, rfl⟩ := h; exact ⟨rfl, .inr ⟨rfl, hx⟩⟩
      · simp [hp, hx] at h

theorem receiverMove_not_settle (s u : State) : receiverMove s ≠ .settle u := by
  unfold receiverMove; split <;> simp

/-! ### The index -/

theorem idxOf_idxPulse_idxHalf (n : BitVec 7) : idxOf (idxPulse n) (idxHalf n) = n := by
  revert n; decide

theorem idxPulse_toNat_lt {n : BitVec 7} (h : n.toNat < 80) : (idxPulse n).toNat < 40 := by
  have key : ∀ m : BitVec 7, m.toNat < 80 → (idxPulse m).toNat < 40 := by decide
  exact key n h

/-- What one step can do, said once (R8, R33, R163): the host moves, or the receiver runs the operation of its
position. -/
theorem step_inversion {s t : State} (h : step s = .next t) :
    (∃ r v, s.host.head? = some (.write r v) ∧ ¬ (r = 0#4 ∧ v = 1#8) ∧ t = popHost s) ∨
    (s.host.head? = some (.write 0#4 1#8) ∧ t = (if s.phase = Phase.idle then acceptRead (popHost s) else popHost s)) ∨
    (∃ r, s.host.head? = some (.read r) ∧ t = hostRead r (popHost s)) ∨
    (s.host.head? = some .rst ∧ t = assertReset (popHost s)) ∨
    (HostQuiet s ∧ s.phase = Phase.sample ∧ s.idx.toNat < 80 ∧
      t = levelStep (idxHalf s.idx) (storeSample (idxPulse s.idx) (idxHalf s.idx)) (popHost s)) ∨
    (HostQuiet s ∧ ∃ i, plainPhase s.phase = some i ∧ s.indexField = 0#7 ∧ exec i (popHost s) = .next t) := by
  by_cases hq : HostQuiet s
  · rcases step_cases h with ⟨i, u, hf, he⟩ | hf
    · rw [fetch_quiet hq] at hf
      obtain ⟨rfl, ⟨hp, hn, rfl⟩ | ⟨hp, hx⟩⟩ := receiverMove_cases hf
      · refine .inr (.inr (.inr (.inr (.inl ⟨hq, hp, hn, ?_⟩))))
        have hlt := idxPulse_toNat_lt hn
        simp only [popHost_idx] at he hlt
        simp [exec, execSample, hlt] at he
        exact he.symm
      · exact .inr (.inr (.inr (.inr (.inr ⟨hq, i, hp, hx, he⟩))))
    · rw [fetch_quiet hq] at hf
      exact absurd hf (receiverMove_not_settle _ _)
  · rcases fetch_host hq with ⟨r, v, hh, hf⟩ | ⟨r, hh, hf⟩ | ⟨hh, hf⟩
    · rcases hostWrite_cases r v (popHost s) with ⟨rfl, rfl, hw⟩ | ⟨hne, hw⟩
      · rw [hw] at hf
        refine .inr (.inl ⟨hh, ?_⟩)
        simp only [step, hf, exec, execRead, popHost_phase] at h
        cases h; rfl
      · rw [hw] at hf
        refine .inl ⟨r, v, hh, hne, ?_⟩
        simp only [step, hf] at h
        cases h; rfl
    · refine .inr (.inr (.inl ⟨r, hh, ?_⟩))
      simp only [step, hf] at h
      cases h; rfl
    · refine .inr (.inr (.inr (.inl ⟨hh, ?_⟩)))
      simp only [step, hf] at h
      cases h; rfl

/-! ### Runs -/

theorem runSteps_add (k m : Nat) {s t : State} (h : runSteps k s = .next t) :
    runSteps (k + m) s = runSteps m t := by
  induction k generalizing s with
  | zero => cases h; simp
  | succ k ih =>
    rw [Nat.succ_add]
    simp only [runSteps] at h ⊢
    cases hs : step s with
    | next u => simp only [hs] at h ⊢; exact ih h
    | fault r => simp [hs] at h
    | refused r => simp [hs] at h

/-- `runSteps` is the host's own iteration of the machine. -/
theorem core_run_eq (k : Nat) (s : State) : Host.Core.run Sys2Proof.core k s = runSteps k s := by
  induction k generalizing s with
  | zero => rfl
  | succ k ih =>
    have hs : Sys2Proof.core.step s = step s := rfl
    simp only [Host.Core.run, runSteps]
    rw [hs]
    rcases step s with t | r | r
    · exact ih t
    · rfl
    · rfl

end Sys2Proof.Machine
end

