-- ==== Sys2Proof/Laws/Sampler.lean ====
section
/-! SUPPORT. The sampler words and the frame buffer: what a hit does, and which half a store writes. -/

namespace Sys2Proof.Machine

theorem EndsCount.eq_expectedLevel {c : Sense} {l E : Level} (h : EndsCount c l E) : E = expectedLevel c l := by
  cases c <;> simp_all [EndsCount, expectedLevel]

theorem endsCount_expectedLevel (c : Sense) (l : Level) : EndsCount c l (expectedLevel c l) := by
  cases c <;> simp [EndsCount, expectedLevel]

/-- A sampler word is one step of `TLVL` with what the sequencer does at the return. -/
theorem exec_samplerWord {i : Instr} {l : Level} (hw : i.wellFormed = true) (h : timedLevel i = some l) :
    ∃ onReturn : State → State, ∀ s, exec i s = .next (levelStep l onReturn s) := by
  cases i with
  | ackLow => cases h; exact ⟨_, fun _ => rfl⟩
  | ackHigh => cases h; exact ⟨_, fun _ => rfl⟩
  | sample i l' =>
    cases h
    have hi : i.toNat < 40 := by simpa [Instr.wellFormed] using hw
    exact ⟨storeSample i l, fun s => by simp [exec, execSample, hi]⟩
  | _ => cases h

/-- R116: a poll that observes the expected level returns. -/
theorem pulseStep_hit {s : State} (E : Level) (f : State → State) (h : s.sub = .poll)
    (hf : (pinAnswer s).fault = none) (hl : (pinAnswer s).level = E) :
    pulseStep E f s = f (recordCall .pinRead (popPin s)) := by
  rcases pulseStep_poll E f h with ⟨e, h1, -⟩ | ⟨-, -, h1⟩ | ⟨-, h1, -⟩ | ⟨-, h1, -⟩
  · simp [hf] at h1
  · exact h1
  · exact absurd hl h1
  · exact absurd hl h1

theorem idxOf_toNat (i : BitVec 6) (h : Level) : (idxOf i h).toNat = 2 * i.toNat + h.toNat := by
  revert i h; decide

/-- R137: the last invocation leaves `SAMPLE`. -/
theorem storeSample_last {i : BitVec 6} {h : Level} (s : State) (hn : 2 * i.toNat + h.toNat = 79) :
    storeSample i h s = { s with pulse := storeHalf s.pulse i h s.cnt, phase := Phase.decode } := by
  have : idxOf i h = 79#7 := BitVec.eq_of_toNat_eq (by rw [idxOf_toNat, hn]; rfl)
  simp [storeSample, advanceSample, lastIdx, this, goto]

/-- R137: every other invocation is followed by the next. -/
theorem storeSample_more {i : BitVec 6} {h : Level} (s : State) (hn : 2 * i.toNat + h.toNat ≠ 79) :
    storeSample i h s = { s with
      pulse := storeHalf s.pulse i h s.cnt, phase := Phase.sample, idx := idxOf i h + 1#7, cnt := 0#8,
      sub := .poll } := by
  have : idxOf i h ≠ 79#7 := fun he => hn (by rw [← idxOf_toNat, he]; rfl)
  simp [storeSample, advanceSample, lastIdx, this, enterInvocation]

theorem idxOf_succ (i : BitVec 6) (h : Level) :
    idxOf i h + 1#7 = BitVec.ofNat 7 (2 * i.toNat + h.toNat + 1) := by
  apply BitVec.eq_of_toNat_eq
  rw [BitVec.toNat_add, idxOf_toNat, BitVec.toNat_ofNat]; rfl

/-- R135, R137: a store writes half `2 i + h` and no other. -/
theorem halfAt_storeHalf (ps : Vector Pulse 40) {i : BitVec 6} (h : Level) (c : Byte) (hi : i.toNat < 40)
    (n : Fin 80) :
    halfAt (storeHalf ps i h c) n = if n.val = 2 * i.toNat + h.toNat then c else halfAt ps n := by
  obtain ⟨n, hn⟩ := n
  simp only [storeHalf, hi, dif_pos, halfAt, Vector.getElem_set]
  by_cases hq : i.toNat = n / 2
  · simp only [hq, if_true]
    cases h
    · by_cases hm : n % 2 = 0
      · have : n = 2 * (n / 2) := by omega
        simp [hm, setHalf, this.symm]
      · have : n ≠ 2 * (n / 2) := by omega
        simp [hm, setHalf, this]
    · by_cases hm : n % 2 = 0
      · have : n ≠ 2 * (n / 2) + 1 := by omega
        simp [hm, setHalf, this]
      · have : n = 2 * (n / 2) + 1 := by omega
        simp [hm, setHalf, this.symm]
  · have : n ≠ 2 * i.toNat + h.toNat := by cases h <;> simp <;> omega
    simp [hq, this]

/-- Two frame buffers with the same halves are the same. -/
theorem pulse_ext_halfAt {ps qs : Vector Pulse 40} (h : ∀ n, halfAt ps n = halfAt qs n) : ps = qs := by
  apply Vector.ext
  intro i hi
  have h0 := h ⟨2 * i, by omega⟩
  have h1 := h ⟨2 * i + 1, by omega⟩
  have e0 : 2 * i / 2 = i := by omega
  have e1 : (2 * i + 1) / 2 = i := by omega
  have e2 : (2 * i + 1) % 2 = 1 := by omega
  simp only [halfAt, Nat.mul_mod_right, if_true, e0, e1, e2] at h0 h1
  have e3 : ps[i].high = qs[i].high := by simpa using h1
  cases hp : ps[i]; cases hq : qs[i]
  simp_all

end Sys2Proof.Machine
end

