-- ==== Sys2Proof/Laws/Inversion.lean ====
section
/-! SUPPORT. The inversion of `step`: every next state, with the guards it has. Invariants follow by cases. -/

namespace Sys2Proof.Machine

/-- What the receiver's move can lead to (R163), from the state in which it moves. -/
inductive ReceiverStep (s : State) : State → Prop
  | idle : s.phase = Phase.idle → ReceiverStep s s
  | h1Hold : s.phase = Phase.h1Hold → ReceiverStep s (goto Phase.h2Set (recordCall (.delayMs 1#16) s))
  | h2Hold : s.phase = Phase.h2Hold → ReceiverStep s (goto Phase.h3Set (recordCall (.delayUs s.sdly) s))
  | h3Hold : s.phase = Phase.h3Hold → ReceiverStep s (enterInvocation Phase.ackLow (recordCall (.delayUs 40#16) s))
  | h1Set : s.phase = Phase.h1Set → (pinAnswer s).fault = none →
      ReceiverStep s (goto Phase.h1Hold { recordCall .pinSetHigh (popPin s) with drv := true })
  | h2Set : s.phase = Phase.h2Set → (pinAnswer s).fault = none →
      ReceiverStep s (goto Phase.h2Hold { recordCall .pinSetLow (popPin s) with drv := false })
  | h3Set : s.phase = Phase.h3Set → (pinAnswer s).fault = none →
      ReceiverStep s (goto Phase.h3Hold { recordCall .pinSetHigh (popPin s) with drv := true })
  | setFails (c : Primitive) (d : Bool) (e : Nat) :
      s.phase = Phase.h1Set ∧ c = .pinSetHigh ∨ s.phase = Phase.h2Set ∧ c = .pinSetLow ∨
        s.phase = Phase.h3Set ∧ c = .pinSetHigh →
      (pinAnswer s).fault = some e →
      ReceiverStep s (raise (.io e) { recordCall c (popPin s) with drv := d })
  | wait : samplerPhase s.phase = true → s.sub = .wait →
      ReceiverStep s { recordCall (.delayUs 1#16) s with cnt := s.cnt + 1#8, sub := .poll }
  | pollFails (e : Nat) : samplerPhase s.phase = true → s.sub = .poll → (pinAnswer s).fault = some e →
      ReceiverStep s (raise (.io e) (recordCall .pinRead (popPin s)))
  | pollExpires : samplerPhase s.phase = true → s.sub = .poll → s.cnt = 255#8 →
      ReceiverStep s (raise .timeout (recordCall .pinRead (popPin s)))
  | pollMisses : samplerPhase s.phase = true → s.sub = .poll → s.cnt ≠ 255#8 →
      ReceiverStep s { recordCall .pinRead (popPin s) with sub := .wait }
  | ackLow : s.phase = Phase.ackLow → s.sub = .poll →
      ReceiverStep s (enterInvocation Phase.ackHigh (recordCall .pinRead (popPin s)))
  | ackHigh : s.phase = Phase.ackHigh → s.sub = .poll →
      ReceiverStep s (enterSampling (recordCall .pinRead (popPin s)))
  | sampleLast : s.phase = Phase.sample → s.sub = .poll → s.idx = 79#7 →
      ReceiverStep s { recordCall .pinRead (popPin s) with
        pulse := storeHalf s.pulse (idxPulse s.idx) (idxHalf s.idx) s.cnt, phase := Phase.decode }
  | sampleMore : s.phase = Phase.sample → s.sub = .poll → s.idx.toNat < 79 →
      ReceiverStep s { recordCall .pinRead (popPin s) with
        pulse := storeHalf s.pulse (idxPulse s.idx) (idxHalf s.idx) s.cnt, phase := Phase.sample,
        idx := s.idx + 1#7, cnt := 0#8, sub := .poll }
  | frameAccepted : s.phase = Phase.decode →
      expectedChecksum (assemble s.pulse) = actualChecksum (assemble s.pulse) →
      ReceiverStep s (publish { s with byte := assemble s.pulse })
  | frameRejected : s.phase = Phase.decode →
      expectedChecksum (assemble s.pulse) ≠ actualChecksum (assemble s.pulse) →
      ReceiverStep s (raise (.checksum (expectedChecksum (assemble s.pulse)) (actualChecksum (assemble s.pulse)))
        { s with byte := assemble s.pulse })

/-- What a step can lead to (R33, R161, R163, R230). -/
inductive MachineStep (s : State) : State → Prop
  | inertWrite (r : BitVec 4) (v : BitVec 8) : s.host.head? = some (.write r v) → ¬ (r = 0#4 ∧ v = 1#8) →
      MachineStep s (popHost s)
  | accept : s.host.head? = some (.write 0#4 1#8) → s.phase = Phase.idle → MachineStep s (acceptRead (popHost s))
  | refuse : s.host.head? = some (.write 0#4 1#8) → s.phase ≠ Phase.idle → MachineStep s (popHost s)
  | hostRead (r : BitVec 4) : s.host.head? = some (.read r) → MachineStep s (hostRead r (popHost s))
  | rst : s.host.head? = some .rst → MachineStep s (assertReset (popHost s))
  | receiver (t : State) : HostQuiet s → ReceiverStep (popHost s) t → MachineStep s t

theorem idxPulse_idxHalf_toNat (n : BitVec 7) : 2 * (idxPulse n).toNat + (idxHalf n).toNat = n.toNat := by
  rw [← idxOf_toNat, idxOf_idxPulse_idxHalf]

/-- A step of a sampler word, given what a return leads to. -/
theorem levelStep_receiverStep {s : State} (l : Level) (f : State → State) (hp : samplerPhase s.phase = true)
    (hf : s.sub = .poll → ReceiverStep s (f (recordCall .pinRead (popPin s)))) :
    ReceiverStep s (levelStep l f s) := by
  unfold levelStep
  cases hs : s.sub with
  | wait => rw [pulseStep_wait _ _ hs]; exact .wait hp hs
  | poll =>
    rcases pulseStep_poll (expectedLevel s.cfg.sense l) f hs with ⟨e, h1, h2⟩ | ⟨-, -, h1⟩ | ⟨-, -, h1, h2⟩ |
      ⟨-, -, h1, h2⟩
    · rw [h2]; exact .pollFails e hp hs h1
    · rw [h1]; exact hf hs
    · rw [h2]; exact .pollExpires hp hs h1
    · rw [h2]; exact .pollMisses hp hs h1

/-- A word that has no operand, in its phase. -/
theorem exec_receiverStep {u t : State} {i : Instr} (hp : plainPhase u.phase = some i) (he : exec i u = .next t) :
    ReceiverStep u t := by
  rcases plainPhase_cases hp with ⟨h, rfl⟩ | ⟨h, rfl⟩ | ⟨h, rfl⟩ | ⟨h, rfl⟩ | ⟨h, rfl⟩ | ⟨h, rfl⟩ | ⟨h, rfl⟩ |
      ⟨h, rfl⟩ | ⟨h, rfl⟩ | ⟨h, rfl⟩ <;>
    simp only [exec, execIdle, execH1Set, execH1Hold, execH2Set, execH2Hold, execH3Set, execH3Hold, execAckLow,
      execAckHigh, execDecode, Host.Outcome.next.injEq] at he <;> subst he
  · exact .idle h
  · rcases setPin_cases Level.high (goto Phase.h1Hold) u with ⟨h1, h2⟩ | ⟨e, d, h1, -, h2⟩ <;> rw [seth, h2]
    · exact .h1Set h h1
    · exact .setFails _ d e (.inl ⟨h, rfl⟩) h1
  · exact .h1Hold h
  · rcases setPin_cases Level.low (goto Phase.h2Hold) u with ⟨h1, h2⟩ | ⟨e, d, h1, -, h2⟩ <;> rw [setl, h2]
    · exact .h2Set h h1
    · exact .setFails _ d e (.inr (.inl ⟨h, rfl⟩)) h1
  · exact .h2Hold h
  · rcases setPin_cases Level.high (goto Phase.h3Hold) u with ⟨h1, h2⟩ | ⟨e, d, h1, -, h2⟩ <;> rw [seth, h2]
    · exact .h3Set h h1
    · exact .setFails _ d e (.inr (.inr ⟨h, rfl⟩)) h1
  · exact .h3Hold h
  · exact levelStep_receiverStep _ _ (by simp [h, samplerPhase]) fun hs => .ackLow h hs
  · exact levelStep_receiverStep _ _ (by simp [h, samplerPhase]) fun hs => .ackHigh h hs
  · rcases judgeFrame_cases { u with byte := assemble u.pulse } with ⟨h1, h2⟩ | ⟨h1, h2⟩ <;> rw [h2]
    · exact .frameAccepted h h1
    · exact .frameRejected h h1

/-- What one step can do, with its guards. -/
theorem step_machineStep {s t : State} (h : step s = .next t) : MachineStep s t := by
  rcases step_inversion h with ⟨r, v, h1, h2, rfl⟩ | ⟨h1, rfl⟩ | ⟨r, h1, rfl⟩ | ⟨h1, rfl⟩ | ⟨hq, hp, hn, rfl⟩ |
    ⟨hq, i, hp, -, he⟩
  · exact .inertWrite r v h1 h2
  · split
    · exact .accept h1 ‹_›
    · exact .refuse h1 ‹_›
  · exact .hostRead r h1
  · exact .rst h1
  · refine .receiver _ hq (levelStep_receiverStep _ _ (by simp [hp, samplerPhase]) fun hs => ?_)
    by_cases h79 : s.idx.toNat = 79
    · rw [storeSample_last _ (by rw [idxPulse_idxHalf_toNat, h79])]
      exact .sampleLast hp hs (BitVec.eq_of_toNat_eq h79)
    · rw [storeSample_more _ (by rw [idxPulse_idxHalf_toNat]; exact h79), idxOf_idxPulse_idxHalf]
      exact .sampleMore hp hs (by simp only [popHost_idx]; omega)
  · exact .receiver _ hq (exec_receiverStep hp he)

end Sys2Proof.Machine
end

