-- ==== Sys2Proof/Laws/PerInstr.lean ====
section
/-! SUPPORT. One lemma per operation: its encoding lies in its row of spec/opcode_table.json. -/

namespace Sys2Proof.Laws.TableRow

/-- The width of a word's format and its bits as a number (R65, R66). -/
def wordBits : CodeWord → Nat × Nat
  | .cmd v => (8, v.toNat)
  | .seq w => (11, w.toNat)

/-- A row of spec/opcode_table.json. -/
structure Row where
  width     : Nat
  mask      : Nat
  matchBits : Nat

/-- The row of an operation, copied from the table. -/
def rowOf : Instr → Row
  | .read => ⟨8, 0xFF, 0x01⟩
  | .idle => ⟨11, 0x7FF, 0x000⟩
  | .h1Set => ⟨11, 0x7FF, 0x080⟩
  | .h1Hold => ⟨11, 0x7FF, 0x100⟩
  | .h2Set => ⟨11, 0x7FF, 0x180⟩
  | .h2Hold => ⟨11, 0x7FF, 0x200⟩
  | .h3Set => ⟨11, 0x7FF, 0x280⟩
  | .h3Hold => ⟨11, 0x7FF, 0x300⟩
  | .ackLow => ⟨11, 0x7FF, 0x380⟩
  | .ackHigh => ⟨11, 0x7FF, 0x400⟩
  | .sample _ _ => ⟨11, 0x780, 0x480⟩
  | .decode => ⟨11, 0x7FF, 0x500⟩

/-- The encoding of a well-formed operation has its row's width and matches its row's fixed bits. -/
def Statement (i : Instr) : Prop :=
  i.wellFormed = true →
    (wordBits (encode i)).1 = (rowOf i).width ∧ (wordBits (encode i)).2 &&& (rowOf i).mask = (rowOf i).matchBits

theorem read : Statement .read := fun _ => ⟨rfl, rfl⟩
theorem idle : Statement .idle := fun _ => ⟨rfl, rfl⟩
theorem h1Set : Statement .h1Set := fun _ => ⟨rfl, rfl⟩
theorem h1Hold : Statement .h1Hold := fun _ => ⟨rfl, rfl⟩
theorem h2Set : Statement .h2Set := fun _ => ⟨rfl, rfl⟩
theorem h2Hold : Statement .h2Hold := fun _ => ⟨rfl, rfl⟩
theorem h3Set : Statement .h3Set := fun _ => ⟨rfl, rfl⟩
theorem h3Hold : Statement .h3Hold := fun _ => ⟨rfl, rfl⟩
theorem ackLow : Statement .ackLow := fun _ => ⟨rfl, rfl⟩
theorem ackHigh : Statement .ackHigh := fun _ => ⟨rfl, rfl⟩
theorem sample (i : BitVec 6) (h : Level) : Statement (.sample i h) := by
  have key : ∀ (i : BitVec 6) (h : Level), (wordBits (encode (.sample i h))).2 &&& 0x780 = 0x480 := by decide
  exact fun _ => ⟨rfl, key i h⟩
theorem decode : Statement .decode := fun _ => ⟨rfl, rfl⟩

end Sys2Proof.Laws.TableRow
end

