-- ==== Sys2Proof/Laws/Reading.lean ====
section
/-! SUPPORT. The binary32 words of `f32OfHalves`, and the range of the Celsius value. -/

namespace Sys2Proof.Machine

/-- Bits 30:23 of a binary32 word. -/
theorem f32_exponent (sg : BitVec 1) (e : BitVec 8) (f : BitVec 23) : ((sg ++ e ++ f : BitVec 32).extractLsb' 23 8) = e := by
  ext i hi
  show ((sg ++ e ++ f : BitVec (1+8+23)).extractLsb' 23 8)[i] = _
  simp only [BitVec.getElem_extractLsb', BitVec.getLsbD_append]
  simp [hi]

/-- Bits 22:0 of a binary32 word. -/
theorem f32_fraction (sg : BitVec 1) (e : BitVec 8) (f : BitVec 23) : ((sg ++ e ++ f : BitVec 32).extractLsb' 0 23) = f := by
  ext i hi
  show ((sg ++ e ++ f : BitVec (1+8+23)).extractLsb' 0 23)[i] = _
  simp only [BitVec.getElem_extractLsb', BitVec.getLsbD_append]
  simp [hi]

/-- Bit 31 of a binary32 word. -/
theorem f32_sign (sg : Bool) (e : BitVec 8) (f : BitVec 23) : ((BitVec.ofBool sg ++ e ++ f : BitVec 32).getLsbD 31) = sg := by
  show ((BitVec.ofBool sg ++ e ++ f : BitVec (1+8+23)).getLsbD 31) = _
  simp only [BitVec.getLsbD_append]; simp

/-- A half of at most 24 bits that is not 0 is rendered exactly. -/
theorem f32OfHalves_rendersExactly (n : Int) (h0 : n ≠ 0) (hn : n.natAbs < 2 ^ 24) : RendersExactly (f32OfHalves n) ((n : Rat) / 2) := by
  have hm : n.natAbs ≠ 0 := by omega
  generalize hmm : n.natAbs = m at *
  have h1 := Nat.log2_self_le hm
  have h2 := Nat.lt_log2_self (n := m)
  have he : m.log2 < 24 := (Nat.log2_lt hm).mpr hn
  generalize hee : m.log2 = e at *
  have hfr : (m - 2^e) * 2^(23-e) < 2^23 := by
    have : 2^e * 2^(23-e) = 2^23 := by rw [← Nat.pow_add]; congr 1; omega
    rw [← this]; apply Nat.mul_lt_mul_of_pos_right _ (Nat.two_pow_pos _); rw [Nat.pow_succ] at h2; omega
  have hfr2 : 2^23 + (m - 2^e) * 2^(23-e) = m * 2^(23-e) := by
    have : 2^e * 2^(23-e) = 2^23 := by rw [← Nat.pow_add]; congr 1; omega
    rw [← this, ← Nat.add_mul]; congr 1; omega
  generalize hF : (m - 2^e) * 2^(23-e) = F at *
  have hw : f32OfHalves n = BitVec.ofBool (decide (n < 0)) ++ BitVec.ofNat 8 (e + 126) ++ BitVec.ofNat 23 F := by
    simp only [f32OfHalves, hmm, hee, hF, if_neg hm]
  have hq : (n:Rat) = (if n < 0 then -1 else 1) * (m:Rat) := by
    split
    · have : n = -(m:Int) := by omega
      rw [this]; push_cast; ring
    · have : n = (m:Int) := by omega
      rw [this]; push_cast; ring
  have E1 : ((f32OfHalves n).extractLsb' 23 8).toNat = e + 126 := by
    rw [hw, f32_exponent, BitVec.toNat_ofNat]; exact Nat.mod_eq_of_lt (by omega)
  have E2 : ((f32OfHalves n).extractLsb' 0 23).toNat = F := by
    rw [hw, f32_fraction, BitVec.toNat_ofNat]; exact Nat.mod_eq_of_lt hfr
  have E3 : (f32OfHalves n).getLsbD 31 = decide (n < 0) := by rw [hw, f32_sign]
  simp only [RendersExactly, E1, E2, E3, hfr2]
  refine ⟨by omega, by omega, ?_⟩
  rw [hq]
  have h1 : ((m * 2^(23-e) : Nat) : Rat) * 2^(e+126) = m * 2^149 := by
    push_cast; rw [mul_assoc, ← pow_add]
    have : 23 - e + (e + 126) = 149 := by omega
    rw [this]
  have h2 : ∀ k : Nat, k = 150 → (2:Rat)^k = 2 * 2^149 := by
    intro k hk
    have hk : k = 149 + 1 := hk
    rw [hk, pow_succ']
  simp only [decide_eq_true_eq]
  rw [mul_assoc _ _ ((2:Rat)^(e+126)), h1, h2 150 rfl]
  generalize (2:Rat)^149 = P
  generalize (if n < 0 then (-1:Rat) else 1) = sg
  ring

/-- R102, R103: the range of the Celsius value over both variants. -/
theorem celsiusTenths_bounds (r : Reading) : -32767 ≤ r.celsiusTenths ∧ r.celsiusTenths ≤ 32767 := by
  unfold Reading.celsiusTenths
  cases r.variant
  · simp only [temperatureLowres]
    have := r.data[2].isLt; have := (r.data[3].extractLsb' 0 4).isLt
    split <;> omega
  · simp only [temperatureHires, magnitudeHires]
    have := (r.data[2].extractLsb' 0 7 ++ r.data[3]).isLt
    split <;> omega

end Sys2Proof.Machine
end

