-- ==== Sys2Proof/Tests/Slice0.lean ====
section
/-! SUPPORT. The model's own tests. Expected values are the spec's (95_test_vectors.md: V-… and S…, and the encodings of
30_encoding.md), or computed by hand from the rule named. The second half gives, for each statement that has hypotheses,
a state and operands that meet them. -/

namespace Sys2Proof.Tests

open Sys2Proof Sys2Proof.Machine

/-! ### Small states -/

/-- The constants of program P1: `HIRES`, `SDLY` 1100, `IOERR_W` 8, `timed`. -/
def cfgHires : Settings := ⟨.hires, 18000#16, 1100#16, 8, .timed⟩

/-- The same instance under the other reading of the call sites. -/
def cfgAwaited : Settings := { cfgHires with sense := .awaited }

/-- A `LOWRES` instance. -/
def cfgLowres : Settings := { cfgHires with variant := .lowres }

/-- A block in phase `p` of a running `READ` that will get the answers `pins`. -/
def inPhase (p : BitVec 4) (pins : List PinIn) : State := { State.reset with cfg := cfgHires, phase := p, pins := pins }

/-- A block in `SAMPLE` at index `n`, in sub-state `u` with count `c`. -/
def sampling (n : BitVec 7) (u : Sub) (c : Byte) (pins : List PinIn) : State :=
  { inPhase Phase.sample pins with idx := n, sub := u, cnt := c }

/-- A read that observed `l`. -/
def lv (l : Level) : PinIn := ⟨none, l, false⟩

/-- A set that succeeded. -/
def setOk : PinIn := ⟨none, false, false⟩

/-- An operation that failed with `e`; `took` as drawn. -/
def failed (e : Nat) (took : Bool) : PinIn := ⟨some e, true, took⟩

/-- The next state, where there is one. -/
def nextOf (o : Host.Outcome State Fault Refusal) : Option State :=
  match o with
  | .next t => some t
  | .fault _ => none
  | .refused _ => none

/-- The fault, where there is one. -/
def faultOf (o : Host.Outcome State Fault Refusal) : Option Fault :=
  match o with
  | .next _ => none
  | .fault f => some f
  | .refused _ => none

/-- The pulses of a frame, `(50, 70)` for a 1 and `(50, 26)` for a 0 (95, section 3). -/
def pulsesOf (b : Vector Byte 5) : Vector Pulse 40 :=
  Vector.ofFn fun i => ⟨50#8, if (b.toList.getD (i.val / 8) 0#8).getLsbD (7 - i.val % 8) then 70#8 else 26#8⟩

/-- A block about to decode the frame `b`. -/
def decoding (b : Vector Byte 5) : State := { inPhase Phase.decode [] with pulse := pulsesOf b }

/-- A block that has ended a `READ` with the Reading `02 8C 01 5F`. -/
def finished : State :=
  { inPhase Phase.idle [] with done := true, ok := true, rvar := .hires, data := #v[0x02#8, 0x8C#8, 0x01#8, 0x5F#8] }

/-! ### Ill-formed operations -/

theorem test_wellFormed_refuses_pulse_40 : (Instr.sample 40#6 false).wellFormed = false := by decide
theorem test_wellFormed_refuses_pulse_63 : (Instr.sample 63#6 true).wellFormed = false := by decide

/-! ### Decoding: words written out from 30_encoding.md R69 -/

theorem test_decode_read : decodeWord (.cmd 0b00000001#8) = .instr .read := by decide
theorem test_decode_idle : decodeWord (.seq 0b00000000000#11) = .instr .idle := by decide
theorem test_decode_h1Set : decodeWord (.seq 0b00010000000#11) = .instr .h1Set := by decide
theorem test_decode_h1Hold : decodeWord (.seq 0b00100000000#11) = .instr .h1Hold := by decide
theorem test_decode_h2Set : decodeWord (.seq 0b00110000000#11) = .instr .h2Set := by decide
theorem test_decode_h2Hold : decodeWord (.seq 0b01000000000#11) = .instr .h2Hold := by decide
theorem test_decode_h3Set : decodeWord (.seq 0b01010000000#11) = .instr .h3Set := by decide
theorem test_decode_h3Hold : decodeWord (.seq 0b01100000000#11) = .instr .h3Hold := by decide
theorem test_decode_ackLow : decodeWord (.seq 0b01110000000#11) = .instr .ackLow := by decide
theorem test_decode_ackHigh : decodeWord (.seq 0b10000000000#11) = .instr .ackHigh := by decide
theorem test_decode_sample : decodeWord (.seq 0b10010001101#11) = .instr (.sample 6#6 true) := by decide
theorem test_decode_sample_last : decodeWord (.seq 0x4CF#11) = .instr (.sample 39#6 true) := by decide
theorem test_decode_decode : decodeWord (.seq 0b10100000000#11) = .instr .decode := by decide
theorem test_decode_refuses_index_80 : decodeWord (.seq 0x4D0#11) = .reserved (.indexRange 80#7) := by decide
theorem test_decode_refuses_phase_B : decodeWord (.seq 0x580#11) = .reserved (.phase 0xB#4) := by decide
theorem test_decode_refuses_command_2 : decodeWord (.cmd 0x02#8) = .reserved (.command 2#8) := by decide
theorem test_bytes_of_sample : decodeBytes [0x8D#8, 0x04#8] = .instr (.sample 6#6 true) := by decide
theorem test_bytes_refused : decodeBytes [0x8D#8, 0x0C#8] = .reserved .layout := by decide

/-! ### One step of each operation -/

/-- V-Q2. -/
theorem test_read_accepted :
    (nextOf (step { finished with host := [.write 0#4 1#8] })).map
      (fun t => (t.status, t.phase, t.data)) = some (0x01#8, 0x1#4, #v[0#8, 0#8, 0#8, 0#8]) := by decide
/-- V-Q3. -/
theorem test_read_refused_while_busy :
    (nextOf (step { inPhase Phase.ackLow [lv true] with host := [.write 0#4 1#8] })).map
      (fun t => (t.status, t.phase, t.pins)) = some (0x01#8, 0x7#4, [lv true]) := by decide
/-- R161. -/
theorem test_idle_rests : (nextOf (step finished)).map State.status = some 0x26#8 := by decide
/-- V-P2. -/
theorem test_h1Set : (nextOf (step (inPhase Phase.h1Set [setOk]))).map
    (fun t => (t.drv, t.phase, t.trace)) = some (true, 0x2#4, [.pinSetHigh]) := by decide
/-- V-P3, V-E3. -/
theorem test_h1Set_fails : (nextOf (step { inPhase Phase.h1Set [failed 0x5A false] with drv := false })).map
    (fun t => (t.drv, t.status, t.ioerr)) = some (false, 0x0A#8, 0x5A) := by decide
/-- V-P10. -/
theorem test_h1Hold : (nextOf (step (inPhase Phase.h1Hold []))).map
    (fun t => (t.time, t.phase)) = some (1000, 0x3#4) := by decide
/-- V-P4. -/
theorem test_h2Set : (nextOf (step (inPhase Phase.h2Set [setOk]))).map
    (fun t => (t.drv, t.phase)) = some (false, 0x4#4) := by decide
/-- V-P5. -/
theorem test_h2Set_fails_low : (nextOf (step (inPhase Phase.h2Set [failed 0x5A true]))).map
    (fun t => (t.drv, t.phase, t.ecode)) = some (false, 0x0#4, 1#2) := by decide
/-- V-V30. -/
theorem test_h2Hold : (nextOf (step (inPhase Phase.h2Hold []))).map
    (fun t => (t.time, t.phase)) = some (1100, 0x5#4) := by decide
/-- R124 with the constants of program P5. -/
theorem test_h2Hold_lowres : (nextOf (step { inPhase Phase.h2Hold [] with cfg := cfgLowres })).map State.time
    = some 18000 := by decide
/-- V-P1. -/
theorem test_h3Set : (nextOf (step { inPhase Phase.h3Set [setOk] with drv := false })).map
    (fun t => (t.drv, t.phase)) = some (true, 0x6#4) := by decide
/-- R126. -/
theorem test_h3Hold : (nextOf (step (inPhase Phase.h3Hold []))).map
    (fun t => (t.time, t.phase, t.cnt, t.sub)) = some (40, 0x7#4, 0#8, .poll) := by decide
/-- V-S1 through V-S13: the expected level of `TLVL low` is high under `timed`. -/
theorem test_ackLow_ends_high : (nextOf (step { inPhase Phase.ackLow [lv true] with cnt := 70#8 })).map
    (fun t => (t.phase, t.cnt)) = some (0x8#4, 0#8) := by decide
/-- V-S14: under `awaited` it is low. -/
theorem test_ackLow_awaited : (nextOf (step { inPhase Phase.ackLow [lv false] with cfg := cfgAwaited })).map
    State.phase = some 0x8#4 := by decide
/-- R128. -/
theorem test_ackHigh_ends_low : (nextOf (exec .ackHigh { inPhase Phase.ackHigh [lv false] with idx := 3#7 })).map
    (fun t => (t.phase, t.idx)) = some (0x9#4, 0#7) := by decide
/-- V-H6. -/
theorem test_ackHigh_expires : (nextOf (step { inPhase Phase.ackHigh [lv true] with cnt := 255#8 })).map
    State.status = some 0x12#8 := by decide
/-- V-F3 with `n` 78, V-Q10. -/
theorem test_sample_low_half : (nextOf (step (sampling 78#7 .poll 50#8 [lv true]))).map
    (fun t => (t.pulse[39], t.idx, t.phase)) = some (⟨50#8, 0#8⟩, 79#7, 0x9#4) := by decide
/-- V-F3 with `n` 79, V-Q9. -/
theorem test_sample_last : (nextOf (step (sampling 79#7 .poll 26#8 [lv false]))).map
    (fun t => (t.pulse[39], t.phase)) = some (⟨0#8, 26#8⟩, 0xA#4) := by decide
/-- V-D1. -/
theorem test_decode_accepts : (nextOf (step (decoding #v[0x02#8, 0x8C#8, 0x01#8, 0x5F#8, 0xEE#8]))).map
    (fun t => (t.status, t.data)) = some (0x26#8, #v[0x02#8, 0x8C#8, 0x01#8, 0x5F#8]) := by decide
/-- V-D2, V-E4. -/
theorem test_decode_rejects : (nextOf (step (decoding #v[0x02#8, 0x8C#8, 0x01#8, 0x5F#8, 0xEF#8]))).map
    (fun t => (t.status, t.ckexp, t.ckact, t.data[0])) = some (0x1A#8, 0xEE#8, 0xEF#8, 0#8) := by decide
/-- R70: a reserved position is stuck. -/
theorem test_stuck : faultOf (step (inPhase 0xB#4 [])) = some (.stuckSequencer (.phase 0xB#4)) := by decide
/-- V-R2. -/
theorem test_rst : (nextOf (step { inPhase Phase.h2Hold [] with drv := false, host := [.rst] })).map
    (fun t => (t.phase, t.drv, t.done)) = some (0x0#4, true, false) := by decide
/-- V-Q7. -/
theorem test_host_reads_cfg : (nextOf (step { finished with host := [.read 1#4] })).map State.rdata = some 1 := by
  decide

/-! ### Conversions (95, section 2.2 and 2.8) -/

/-- V-V5, V-V4. -/
theorem test_humidity_lowres : humidityLowres 255#8 255#8 = 2805 ∧ humidityLowres 45#8 12#8 = 462 := by decide
/-- V-V6, V-V8, V-V11, V-V15. -/
theorem test_temperature_lowres :
    temperatureLowres 26#8 0x85#8 = -265 ∧ temperatureLowres 26#8 0x75#8 = 265 ∧ temperatureLowres 0#8 0x8F#8 = 5 ∧
    temperatureLowres 5#8 0x83#8 = -57 := by decide
/-- V-V17, V-V20, V-V24. -/
theorem test_temperature_hires :
    temperatureHires 0x81#8 0x90#8 = -400 ∧ temperatureHires 0x7F#8 0xFF#8 = 32767 ∧
    temperatureHires 0x80#8 0x65#8 = -101 := by decide
/-- V-V25, V-V28. -/
theorem test_humidity_hires : humidityHires 0x02#8 0x8C#8 = 652 ∧ humidityHires 0x80#8 0x00#8 = 32768 := by decide
/-- S5: 32.0 and 212.0 in binary32. -/
theorem test_fahrenheit_f32 : f32OfHalves 64 = 0x42000000#32 ∧ f32OfHalves 424 = 0x43540000#32 := by decide
/-- V-A5, V-A7. -/
theorem test_fahrenheit : fahrenheitHundredths (-265) = -1570 ∧ fahrenheitHundredths (-400) = -4000 := by decide

/-! ### Witnesses: states and operands that meet each statement's hypotheses -/

theorem witness_DecodeOfEncodeIsTheInstruction : (Instr.sample 39#6 true).wellFormed = true := by decide

theorem witness_DecodedWordIsTheEncoding : decodeWord (.seq 0x4CF#11) = .instr (.sample 39#6 true) := by decide

/-- In `SAMPLE` at the last index; in `IDLE` and `DECODE` with the `IDX` that the sampling loop left. -/
theorem witness_StepRunsTheSequencerWord :
    (HostQuiet (sampling 79#7 .poll 0#8 []) ∧
      decodeWord (.seq (sampling 79#7 .poll 0#8 []).seqWord) = .instr (.sample 39#6 true)) ∧
    (HostQuiet { inPhase 0x0#4 [] with idx := 79#7, host := [.quiet] } ∧
      decodeWord (.seq ({ inPhase 0x0#4 [] with idx := 79#7, host := [.quiet] } : State).seqWord) = .instr .idle) ∧
    (HostQuiet { inPhase 0xA#4 [] with idx := 79#7 } ∧
      decodeWord (.seq ({ inPhase 0xA#4 [] with idx := 79#7 } : State).seqWord) = .instr .decode) :=
  ⟨⟨.inl rfl, by decide⟩, ⟨.inr rfl, by decide⟩, ⟨.inl rfl, by decide⟩⟩

/-- The edges of the reserved positions: `SAMPLE` with 80, `IDLE` with 80, `ACK_HIGH` with 1, `DECODE` with 78. -/
theorem witness_StuckExactlyInReservedPositions :
    HostQuiet (sampling 80#7 .poll 0#8 []) ∧
    faultOf (step (sampling 80#7 .poll 0#8 [])) = some (.stuckSequencer (.indexRange 80#7)) ∧
    faultOf (step { inPhase 0x0#4 [] with idx := 80#7 }) = some (.stuckSequencer (.indexOutsideSample 80#7)) ∧
    faultOf (step { inPhase 0x8#4 [lv true] with idx := 1#7 }) = some (.stuckSequencer (.indexOutsideSample 1#7)) ∧
    faultOf (step { inPhase 0xA#4 [] with idx := 78#7 }) = some (.stuckSequencer (.indexOutsideSample 78#7)) :=
  ⟨.inl rfl, by decide, by decide, by decide, by decide⟩

theorem witness_CommandWriteRunsRead :
    ({ finished with host := [.write 0x0#4 0x01#8] } : State).host = .write 0x0#4 0x01#8 :: [] := rfl

theorem witness_PlacedWordRunsNext : decodeWord (.seq 0x480#11) = .instr (.sample 0#6 false) := by decide

/-- A read; a write to the register beside `CMD`; a command beside `READ`. -/
theorem witness_HostAccessesAreInert :
    ({ finished with host := [.read 0xF#4] } : State).host = .read 0xF#4 :: [] ∧
    (({ finished with host := [.write 0x1#4 0x01#8] } : State).host = .write 0x1#4 0x01#8 :: [] ∧
      ((0x1#4 : BitVec 4) ≠ 0x0#4 ∨ (0x01#8 : BitVec 8) ≠ 0x01#8)) ∧
    (({ finished with host := [.write 0x0#4 0x02#8] } : State).host = .write 0x0#4 0x02#8 :: [] ∧
      ((0x0#4 : BitVec 4) ≠ 0x0#4 ∨ (0x02#8 : BitVec 8) ≠ 0x01#8)) :=
  ⟨rfl, ⟨rfl, .inl (by decide)⟩, ⟨rfl, .inr (by decide)⟩⟩

theorem witness_ReadAcceptedOnlyInIdle : finished.phase = Phase.idle ∧ (inPhase Phase.h1Set []).phase ≠ Phase.idle := by
  decide

/-- For each of the three sets: it succeeds; it fails, with an error value that does not fit and one that does. -/
theorem witness_H1SetDrivesHigh :
    (pinAnswer (inPhase Phase.h1Set [setOk])).fault = none ∧
    (pinAnswer (inPhase Phase.h1Set [failed 0x15A true])).fault = some 0x5A := by decide

theorem witness_H2SetPullsLow :
    (pinAnswer (inPhase Phase.h2Set [setOk])).fault = none ∧
    (pinAnswer (inPhase Phase.h2Set [failed 255 false])).fault = some 255 := by decide

theorem witness_H3SetReleasesTheLine :
    (pinAnswer (inPhase Phase.h3Set [setOk])).fault = none ∧
    (pinAnswer (inPhase Phase.h3Set [failed 256 true])).fault = some 0 := by decide

theorem witness_H2HoldWaitsTheStartDelay :
    (inPhase Phase.h2Hold []).cfg.variant = .hires ∧
    ({ inPhase Phase.h2Hold [] with cfg := cfgLowres } : State).cfg.variant = .lowres := by decide

theorem witness_AnswersFollowTheScript :
    (inPhase Phase.ackLow [lv true]).pins = lv true :: [] ∧ (inPhase Phase.ackLow []).pins = [] := by decide

theorem witness_SamplerWaitCountsOneTick :
    (Instr.sample 39#6 true).wellFormed = true ∧ timedLevel (.sample 39#6 true) = some true ∧
    (sampling 79#7 .wait 254#8 []).sub = .wait := by decide

/-- Under `timed`, `TLVL low` ends at high. -/
theorem endsCount_timed_low : EndsCount cfgHires.sense Level.low true := by simp [EndsCount, cfgHires]

/-- Under `timed`, `TLVL high` ends at low. -/
theorem endsCount_timed_high : EndsCount cfgHires.sense Level.high false := by simp [EndsCount, cfgHires]

/-- Under `awaited`, `TLVL high` ends at high. -/
theorem endsCount_awaited_high : EndsCount cfgAwaited.sense Level.high true := by
  simp [EndsCount, cfgAwaited, cfgHires]

theorem witness_SamplerMissGoesOnWaiting :
    Instr.ackLow.wellFormed = true ∧ timedLevel .ackLow = some Level.low ∧ EndsCount cfgHires.sense Level.low true ∧
    ({ inPhase Phase.ackLow [lv false] with cnt := 254#8 } : State).sub = .poll ∧
    Misses true (pinAnswer { inPhase Phase.ackLow [lv false] with cnt := 254#8 }) ∧ (254#8 : Byte) ≠ 255#8 :=
  ⟨rfl, rfl, endsCount_timed_low, rfl, ⟨by decide, by decide⟩, by decide⟩

theorem witness_SamplerTimesOutAtCount255 :
    Instr.ackHigh.wellFormed = true ∧ timedLevel .ackHigh = some Level.high ∧
    EndsCount cfgHires.sense Level.high false ∧
    ({ inPhase Phase.ackHigh [lv true] with cnt := 255#8 } : State).sub = .poll ∧
    Misses false (pinAnswer { inPhase Phase.ackHigh [lv true] with cnt := 255#8 }) ∧
    ({ inPhase Phase.ackHigh [lv true] with cnt := 255#8 } : State).cnt = 255#8 :=
  ⟨rfl, rfl, endsCount_timed_high, rfl, ⟨by decide, by decide⟩, rfl⟩

theorem witness_SamplerIoHasPrecedence :
    (Instr.sample 0#6 false).wellFormed = true ∧ timedLevel (.sample 0#6 false) = some false ∧
    (sampling 0#7 .poll 255#8 [failed 1 false]).sub = .poll ∧
    (pinAnswer (sampling 0#7 .poll 255#8 [failed 1 false])).fault = some 1 := by decide

/-- `ACK_LOW` under `timed`; `ACK_HIGH` under `awaited`. -/
theorem witness_AcknowledgementsEndAtTheFirstHit :
    ((inPhase Phase.ackLow [lv true]).sub = .poll ∧ (pinAnswer (inPhase Phase.ackLow [lv true])).fault = none ∧
      (pinAnswer (inPhase Phase.ackLow [lv true])).level = true ∧
      EndsCount (inPhase Phase.ackLow [lv true]).cfg.sense Level.low true) ∧
    ((pinAnswer { inPhase Phase.ackHigh [lv true] with cfg := cfgAwaited }).level = true ∧
      EndsCount cfgAwaited.sense Level.high true) :=
  ⟨⟨rfl, by decide, by decide, endsCount_timed_low⟩, ⟨by decide, endsCount_awaited_high⟩⟩

/-- The last half, and the half before it. -/
theorem witness_SampleStoresTheCount :
    ((39#6 : BitVec 6).toNat < 40 ∧ EndsCount (sampling 79#7 .poll 26#8 [lv false]).cfg.sense true false ∧
      (sampling 79#7 .poll 26#8 [lv false]).sub = .poll ∧
      (pinAnswer (sampling 79#7 .poll 26#8 [lv false])).fault = none ∧
      (pinAnswer (sampling 79#7 .poll 26#8 [lv false])).level = false ∧
      2 * (39#6 : BitVec 6).toNat + true.toNat = 79) ∧
    (EndsCount (sampling 78#7 .poll 255#8 [lv true]).cfg.sense false true ∧
      (pinAnswer (sampling 78#7 .poll 255#8 [lv true])).level = true ∧
      2 * (39#6 : BitVec 6).toNat + false.toNat ≠ 79) :=
  ⟨⟨by decide, endsCount_timed_high, rfl, by decide, by decide, by decide⟩, ⟨endsCount_timed_low, by decide, by decide⟩⟩

theorem witness_SampleBeyondTheFrameIsStuck : 40 ≤ (40#6 : BitVec 6).toNat := by decide

/-- The state of an acknowledgement that `n` misses await. -/
def waiting (n : Nat) (rest : List PinIn) : State := inPhase Phase.ackLow (List.replicate n (lv false) ++ rest)

theorem misses_replicate (n : Nat) : ∀ p ∈ List.replicate n (lv false), Misses true p := by
  intro p hp
  rw [(List.mem_replicate.mp hp).2]
  exact ⟨rfl, by decide⟩

theorem witness_InvocationCountsItsMisses :
    (waiting 255 [lv true]).host = [] ∧ decodeWord (.seq (waiting 255 [lv true]).seqWord) = .instr .ackLow ∧
    timedLevel .ackLow = some Level.low ∧ EndsCount (waiting 255 [lv true]).cfg.sense Level.low true ∧
    (waiting 255 [lv true]).sub = .poll ∧ (waiting 255 [lv true]).cnt = 0#8 ∧
    (waiting 255 [lv true]).pins = List.replicate 255 (lv false) ++ [lv true] ∧
    (∀ p ∈ List.replicate 255 (lv false), Misses true p) ∧ (List.replicate 255 (lv false)).length ≤ 255 :=
  ⟨rfl, rfl, rfl, endsCount_timed_low, rfl, rfl, rfl, misses_replicate 255, Nat.le_of_eq List.length_replicate⟩

theorem witness_InvocationTimesOutAfter256Misses :
    (waiting 256 []).host = [] ∧ decodeWord (.seq (waiting 256 []).seqWord) = .instr .ackLow ∧
    timedLevel .ackLow = some Level.low ∧ EndsCount (waiting 256 []).cfg.sense Level.low true ∧
    (waiting 256 []).sub = .poll ∧ (waiting 256 []).cnt = 0#8 ∧
    (waiting 256 []).pins = List.replicate 256 (lv false) ++ [] ∧
    (∀ p ∈ List.replicate 256 (lv false), Misses true p) ∧ (List.replicate 256 (lv false)).length = 256 :=
  ⟨rfl, rfl, rfl, endsCount_timed_low, rfl, rfl, rfl, misses_replicate 256, List.length_replicate⟩

/-- The frames of V-D1 and V-D2. -/
theorem carriesFrame_VD1 : CarriesFrame (pulsesOf #v[0x02#8, 0x8C#8, 0x01#8, 0x5F#8, 0xEE#8])
    #v[0x02#8, 0x8C#8, 0x01#8, 0x5F#8, 0xEE#8] := by
  have key : ∀ (j : Nat) (hj : j < 5) (k : Nat) (hk : k < 8),
      ((pulsesOf #v[0x02#8, 0x8C#8, 0x01#8, 0x5F#8, 0xEE#8])[8 * j + k].low.toNat <
        (pulsesOf #v[0x02#8, 0x8C#8, 0x01#8, 0x5F#8, 0xEE#8])[8 * j + k].high.toNat) ↔
      (#v[0x02#8, 0x8C#8, 0x01#8, 0x5F#8, 0xEE#8] : Vector Byte 5)[j].getLsbD (7 - k) = true := by decide
  exact fun j k hj hk => key j hj k hk

theorem carriesFrame_VD2 : CarriesFrame (pulsesOf #v[0x02#8, 0x8C#8, 0x01#8, 0x5F#8, 0xEF#8])
    #v[0x02#8, 0x8C#8, 0x01#8, 0x5F#8, 0xEF#8] := by
  have key : ∀ (j : Nat) (hj : j < 5) (k : Nat) (hk : k < 8),
      ((pulsesOf #v[0x02#8, 0x8C#8, 0x01#8, 0x5F#8, 0xEF#8])[8 * j + k].low.toNat <
        (pulsesOf #v[0x02#8, 0x8C#8, 0x01#8, 0x5F#8, 0xEF#8])[8 * j + k].high.toNat) ↔
      (#v[0x02#8, 0x8C#8, 0x01#8, 0x5F#8, 0xEF#8] : Vector Byte 5)[j].getLsbD (7 - k) = true := by decide
  exact fun j k hj hk => key j hj k hk

theorem witness_ChecksumMatchPublishesTheReading :
    CarriesFrame (decoding #v[0x02#8, 0x8C#8, 0x01#8, 0x5F#8, 0xEE#8]).pulse
      #v[0x02#8, 0x8C#8, 0x01#8, 0x5F#8, 0xEE#8] ∧ (0x02 + 0x8C + 0x01 + 0x5F) % 256 = 0xEE :=
  ⟨carriesFrame_VD1, rfl⟩

theorem witness_ChecksumMismatchReportsBothValues :
    CarriesFrame (decoding #v[0x02#8, 0x8C#8, 0x01#8, 0x5F#8, 0xEF#8]).pulse
      #v[0x02#8, 0x8C#8, 0x01#8, 0x5F#8, 0xEF#8] ∧ (0x02 + 0x8C + 0x01 + 0x5F) % 256 ≠ 0xEF :=
  ⟨carriesFrame_VD2, by decide⟩

/-- All pulses `(254, 255)`; all pulses `(255, 255)`. -/
theorem witness_UniformFrames :
    (∀ (n : Nat) (hn : n < 40), (Vector.replicate 40 (⟨254#8, 255#8⟩ : Pulse))[n].low.toNat <
      (Vector.replicate 40 (⟨254#8, 255#8⟩ : Pulse))[n].high.toNat) ∧
    (∀ (n : Nat) (hn : n < 40), (Vector.replicate 40 (⟨255#8, 255#8⟩ : Pulse))[n].high.toNat ≤
      (Vector.replicate 40 (⟨255#8, 255#8⟩ : Pulse))[n].low.toNat) := by
  constructor <;> intro n hn <;> simp

/-- The zero frame, once of pulses `(50, 26)` and once of pulses `(7, 7)`. -/
theorem witness_DecodeSeesOnlyRelativeDurations :
    (∀ (n : Nat) (hn : n < 40), (Vector.replicate 40 (⟨7#8, 7#8⟩ : Pulse))[n].low.toNat <
        (Vector.replicate 40 (⟨7#8, 7#8⟩ : Pulse))[n].high.toNat ↔
      (decoding (Vector.replicate 5 0#8)).pulse[n].low.toNat <
        (decoding (Vector.replicate 5 0#8)).pulse[n].high.toNat) ∧
    ∃ t, exec .decode (decoding (Vector.replicate 5 0#8)) = .next t := ⟨by decide, _, rfl⟩

theorem witness_DecodeIsPure :
    (decoding (Vector.replicate 5 0#8)).ok = false ∧ (decoding (Vector.replicate 5 0#8)).ecode = 0#2 := by decide

theorem witness_ErrorPredicatesAreExclusive :
    finished.ecode = 0#2 ∧ ({ finished with ok := false, ecode := 3#2 } : State).ecode ≠ 0#2 := by decide

theorem witness_RegisterMap : 0xB ≤ (0xB#4 : BitVec 4).toNat ∧ 0xB ≤ (0xF#4 : BitVec 4).toNat := by decide

/-- Readings of both variants at the two sides of each sign flag. -/
theorem witness_conversions :
    ((⟨#v[45#8, 0#8, 26#8, 0x7F#8], .lowres⟩ : Reading).variant = .lowres ∧ (0x7F#8 : Byte).toNat < 128) ∧
    ((⟨#v[45#8, 0#8, 26#8, 0x80#8], .lowres⟩ : Reading).variant = .lowres ∧ 128 ≤ (0x80#8 : Byte).toNat) ∧
    ((⟨#v[2#8, 0x8C#8, 0x7F#8, 0xFF#8], .hires⟩ : Reading).variant = .hires ∧ (0x7F#8 : Byte).toNat < 128) ∧
    ((⟨#v[2#8, 0x8C#8, 0x80#8, 0#8], .hires⟩ : Reading).variant = .hires ∧ 128 ≤ (0x80#8 : Byte).toNat) := by decide

/-- Readings for the clauses: the worked operands; 0.0 as `HIRES` `80 00` and `LOWRES` `00 10`; 100.0 as `HIRES` `03 E8`. -/
theorem witness_StatedBinary32Values :
    let hires (i d : Byte) : Reading := ⟨#v[0#8, 0#8, i, d], .hires⟩
    let lowres (i d : Byte) : Reading := ⟨#v[45#8, 0#8, i, d], .lowres⟩
    ((hires 0x01#8 0x90#8).data[2] = 0x01#8 ∧ (hires 0x01#8 0x90#8).data[3] = 0x90#8) ∧
    ((lowres 26#8 0x85#8).data[2] = 26#8 ∧ (lowres 26#8 0x85#8).data[0] = 45#8) ∧
    (hires 0x80#8 0x00#8).celsiusTenths = 0 ∧ (lowres 0#8 0x10#8).celsiusTenths = 0 ∧
    (hires 0x03#8 0xE8#8).celsiusTenths = 1000 ∧ (hires 0x01#8 0x90#8).celsiusTenths = 400 ∧
    (hires 0x81#8 0x90#8).celsiusTenths = -400 := by decide

/-- 2.5 degrees. -/
theorem witness_FahrenheitIsExact : (⟨#v[0#8, 0#8, 0x00#8, 0x19#8], .hires⟩ : Reading).celsiusTenths % 25 = 0 := by decide

theorem witness_RstAbandonsTheRead :
    ({ sampling 33#7 .poll 0#8 [] with host := [.rst] } : State).host = .rst :: [] := rfl

/-- The edge of the budget: a tick at count 254 in the last invocation. -/
theorem positionInv_sampling : PositionInv (sampling 79#7 .wait 254#8 []) :=
  ⟨by decide, by decide, by decide, by decide, by decide⟩

theorem witness_StepKeepsThePosition :
    PositionInv (sampling 79#7 .wait 254#8 []) ∧ ∃ t, step (sampling 79#7 .wait 254#8 []) = .next t :=
  ⟨positionInv_sampling, _, rfl⟩

theorem resultInv_finished : ResultInv finished :=
  ⟨by decide, by decide, by decide, by decide, by decide, by decide, by decide, by decide, by decide⟩

theorem resultInv_decoding (b : Vector Byte 5) : ResultInv (decoding b) :=
  ⟨fun _ => rfl, nofun, fun h => absurd rfl h, nofun, fun _ => ⟨rfl, rfl⟩, fun _ => ⟨rfl, rfl⟩, fun _ => rfl,
    Nat.two_pow_pos _, nofun⟩

theorem witness_StepKeepsTheResult :
    ResultInv (decoding #v[0x02#8, 0x8C#8, 0x01#8, 0x5F#8, 0xEE#8]) ∧
    ∃ t, step (decoding #v[0x02#8, 0x8C#8, 0x01#8, 0x5F#8, 0xEE#8]) = .next t := ⟨resultInv_decoding _, _, rfl⟩

theorem witness_StepKeepsTheLine :
    LineInv { inPhase Phase.h3Set [setOk] with drv := false } ∧
    ∃ t, step { inPhase Phase.h3Set [setOk] with drv := false } = .next t :=
  ⟨⟨by decide, by decide⟩, _, rfl⟩

theorem witness_NothingStopsTheBlock : PositionInv (sampling 79#7 .wait 254#8 []) := positionInv_sampling

theorem witness_NoOtherTransitions :
    (sampling 79#7 .poll 26#8 [lv false]).host.head? ≠ some .rst ∧
    ∃ t, step (sampling 79#7 .poll 26#8 [lv false]) = .next t := ⟨nofun, _, rfl⟩

/-- Also for `ConstantsAreNeverWritten` and `DrvIsNeverRead`: a pin call with a script and with none, an acceptance. -/
theorem witness_OneCallPerStep :
    (∃ t, step (inPhase Phase.h2Set [failed 1 true]) = .next t ∧ t.pins = [] ∧ t.draws = 0) ∧
    (∃ t, step (inPhase Phase.h2Set []) = .next t) ∧
    (∃ t, step { finished with host := [.write 0#4 1#8] } = .next t ∧ t.trace = []) :=
  ⟨⟨_, rfl, rfl, rfl⟩, ⟨_, rfl⟩, ⟨_, rfl, rfl⟩⟩

theorem witness_ReadEndsWithExactlyOneResult :
    ResultInv (decoding (Vector.replicate 5 0#8)) ∧ (decoding (Vector.replicate 5 0#8)).busy = true ∧
    (decoding (Vector.replicate 5 0#8)).host.head? ≠ some .rst ∧
    ∃ t, step (decoding (Vector.replicate 5 0#8)) = .next t ∧ t.busy = false :=
  ⟨resultInv_decoding _, rfl, nofun, _, rfl, by decide⟩

/-- A Reading appears; a Reading goes. -/
theorem witness_ReadingExistsOnlyAfterAVerifiedFrame :
    (ResultInv (decoding (Vector.replicate 5 0#8)) ∧ (decoding (Vector.replicate 5 0#8)).ok = false ∧
      ∃ t, step (decoding (Vector.replicate 5 0#8)) = .next t ∧ t.ok = true) ∧
    (ResultInv { finished with host := [.write 0#4 1#8] } ∧
      ({ finished with host := [.write 0#4 1#8] } : State).ok = true ∧
      ∃ t, step { finished with host := [.write 0#4 1#8] } = .next t) :=
  ⟨⟨resultInv_decoding _, rfl, _, rfl, by decide⟩,
    ⟨⟨by decide, by decide, by decide, by decide, by decide, by decide, by decide, by decide, by decide⟩, rfl, _, rfl⟩⟩

theorem witness_ResultRegistersRestDuringARead :
    (sampling 78#7 .poll 50#8 [lv true]).busy = true ∧
    ∃ t, step (sampling 78#7 .poll 50#8 [lv true]) = .next t ∧ t.busy = true := ⟨rfl, _, rfl, by decide⟩

/-- Two blocks at invocation 40 that differ in what the invocations 40 to 79 will write. -/
theorem witness_StaleFrameIsUnobservable :
    SameButStaleFrame (sampling 40#7 .poll 0#8 [lv true])
      { sampling 40#7 .poll 0#8 [lv true] with
        pulse := Vector.ofFn fun i => if i.val < 20 then ⟨0#8, 0#8⟩ else ⟨9#8, 9#8⟩, byte := Vector.replicate 5 7#8 } ∧
    ∃ t, step (sampling 40#7 .poll 0#8 [lv true]) = .next t := by
  refine ⟨⟨rfl, ?_⟩, _, rfl⟩
  have key : ∀ n : Fin 80, n.val < 40 →
      halfAt (Vector.ofFn fun i : Fin 40 => if i.val < 20 then (⟨0#8, 0#8⟩ : Pulse) else ⟨9#8, 9#8⟩) n =
        halfAt (Vector.replicate 40 (⟨0#8, 0#8⟩ : Pulse)) n := by decide
  rintro n (⟨-, h⟩ | h)
  · exact key n h
  · exact absurd h (by decide)

theorem witness_EveryReadEnds :
    PositionInv (inPhase Phase.h1Set []) ∧ (inPhase Phase.h1Set []).busy = true ∧ (inPhase Phase.h1Set []).host = [] :=
  ⟨⟨by decide, by decide, by decide, by decide, by decide⟩, rfl, rfl⟩

/-- A block that gets the command, with the answers `pins`. -/
def commanded (pins : List PinIn) : State := { inPhase Phase.idle pins with host := [.write 0x0#4 0x01#8] }

/-- Answers that end every invocation at its first poll: the all-zero frame. -/
def shortest : List PinIn :=
  [setOk, setOk, setOk, lv true, lv false] ++ (List.replicate 40 [lv true, lv false]).flatten

theorem measure_shortest :
    measure cfgHires shortest = some (.ok ⟨0, 0, List.replicate 80 0⟩, []) := by decide

/-- A `READ` that ends with a Reading, and one that ends in its second set. -/
theorem witness_ReadRefinesTheBlockingCall :
    ((commanded shortest).phase = Phase.idle ∧ (commanded shortest).host = [.write 0x0#4 0x01#8] ∧
      readRoutine (commanded shortest).cfg (commanded shortest).pins =
        some (.reading ⟨Vector.replicate 4 0#8, .hires⟩, [])) ∧
    readRoutine (commanded [setOk, failed 0x5A true]).cfg (commanded [setOk, failed 0x5A true]).pins =
      some (.error (.io 0x5A), []) := by decide

theorem witness_CompletedReadTakesItsCounts :
    (commanded shortest).phase = Phase.idle ∧ (commanded shortest).host = [.write 0x0#4 0x01#8] ∧
    measure (commanded shortest).cfg (commanded shortest).pins = some (.ok ⟨0, 0, List.replicate 80 0⟩, []) :=
  ⟨rfl, rfl, measure_shortest⟩

end Sys2Proof.Tests
end

/-! ### What a step does to the record of calls and to the answers (R6, R8, R51) -/

namespace Sys2Proof.Machine

theorem popPin_free {s : State} (h : s.pins = []) : popPin s = { s with draws := s.draws + 1 } := by
  simp [popPin, h]

/-- R90 to R94: the pin operations are answered by the line environment, the delays are not. -/
def Primitive.usesAnswer : Primitive → Bool
  | .pinSetHigh => true
  | .pinSetLow => true
  | .pinRead => true
  | .delayUs _ => false
  | .delayMs _ => false

theorem Primitive.usesAnswer_iff (c : Primitive) :
    c.usesAnswer = true ↔ c = .pinSetHigh ∨ c = .pinSetLow ∨ c = .pinRead := by
  cases c <;> simp [Primitive.usesAnswer]

/-- The two states have the same record of calls and the same answers to come. -/
def SameCalls (t u : State) : Prop := t.trace = u.trace ∧ t.pins = u.pins ∧ t.draws = u.draws

/-- R8, R51: from `s` to `t` at most one call is made, and a pin operation alone uses an answer. -/
inductive AtMostOneCall (s t : State) : Prop
  | silent : SameCalls t s → AtMostOneCall s t
  | delay (c : Primitive) : c.usesAnswer = false → SameCalls t (recordCall c s) → AtMostOneCall s t
  | pin (c : Primitive) : c.usesAnswer = true → SameCalls t (recordCall c (popPin s)) → AtMostOneCall s t

/-- R8, R116, R152: the receiver's move is one call, or the whole of `DECODE`, or `IDLE`. -/
theorem ReceiverStep.atMostOneCall {s t : State} (h : ReceiverStep s t) : AtMostOneCall s t := by
  cases h with
  | idle | frameAccepted | frameRejected => exact .silent ⟨rfl, rfl, rfl⟩
  | h1Hold | h2Hold | h3Hold | wait => exact .delay _ rfl ⟨rfl, rfl, rfl⟩
  | h1Set | h2Set | h3Set | pollFails | pollExpires | pollMisses | ackLow | ackHigh | sampleLast | sampleMore =>
    exact .pin _ rfl ⟨rfl, rfl, rfl⟩
  | setFails c d e hc =>
    have hpin : c.usesAnswer = true := by
      rcases hc with ⟨-, rfl⟩ | ⟨-, rfl⟩ | ⟨-, rfl⟩ <;> rfl
    exact .pin c hpin ⟨rfl, rfl, rfl⟩

/-! ### How a `READ` ends (R7, R165, R205) -/

/-- R7, R165: the flags and the result of `read()` hold exactly one of a Reading and the three errors. -/
def HoldsOneResult (t : State) : Prop :=
  t.done = true ∧
    ((t.ok = true ∧ t.ecode = 0#2 ∧ t.result = some (.reading ⟨t.data, t.rvar⟩)) ∨
     (t.ok = false ∧ t.ecode = 1#2 ∧ t.result = some (.error (.io t.ioerr))) ∨
     (t.ok = false ∧ t.ecode = 2#2 ∧ t.result = some (.error .timeout)) ∨
     (t.ok = false ∧ t.ecode = 3#2 ∧ t.result = some (.error (.checksum t.ckexp t.ckact))))

theorem raise_holdsOneResult (x : ReadError) {s : State} (h : s.ok = false) : HoldsOneResult (raise x s) := by
  have hr := raise_result x h
  cases x with
  | io e => exact ⟨rfl, .inr (.inl ⟨h, rfl, hr⟩)⟩
  | timeout => exact ⟨rfl, .inr (.inr (.inl ⟨h, rfl, hr⟩))⟩
  | checksum expected actual => exact ⟨rfl, .inr (.inr (.inr ⟨h, rfl, hr⟩))⟩

theorem publish_holdsOneResult {s : State} (h : s.ecode = 0#2) : HoldsOneResult (publish s) :=
  ⟨rfl, .inl ⟨rfl, h, publish_result s⟩⟩

/-- R205: the two ways a step ends a `READ`; the flags beside the result are those before the step. -/
inductive EndsRead (s : State) : State → Prop
  | raise (x : ReadError) (u : State) : u.ok = s.ok → EndsRead s (raise x u)
  | publish (u : State) : u.ecode = s.ecode → EndsRead s (publish u)

/-- R163, R206: from a busy position every other move goes to a busy position. -/
theorem ReceiverStep.busy_or_endsRead {s t : State} (h : ReceiverStep s t) (hb : s.busy = true) :
    t.busy = true ∨ EndsRead s t := by
  cases h with
  | idle | wait | pollMisses => exact .inl hb
  | h1Hold | h2Hold | h3Hold | h1Set | h2Set | h3Set | ackLow | ackHigh | sampleLast | sampleMore => exact .inl rfl
  | setFails | pollFails | pollExpires | frameRejected => exact .inr (.raise _ _ rfl)
  | frameAccepted => exact .inr (.publish _ rfl)

/-- R33, R161, R230: of the host's moves only `rst` takes a busy block to `IDLE`. -/
theorem MachineStep.busy_or_endsRead {s t : State} (h : MachineStep s t) (hb : s.busy = true)
    (hr : s.host.head? ≠ some .rst) : t.busy = true ∨ EndsRead s t := by
  cases h with
  | inertWrite | refuse | hostRead => exact .inl hb
  | accept => exact .inl rfl
  | rst h => exact absurd h hr
  | receiver t hq hm =>
    rcases hm.busy_or_endsRead hb with h | ⟨x, u, h⟩ | ⟨u, h⟩
    · exact .inl h
    · exact .inr (.raise x u h)
    · exact .inr (.publish u h)

/-- R24: while `BUSY` is 1 there is no Reading. -/
theorem ResultInv.ok_of_busy {s : State} (hi : ResultInv s) (hb : s.busy = true) : s.ok = false := by
  have hd := hi.busyNotDone hb
  by_contra h
  simp [hi.okIsDone (by simpa using h)] at hd

/-- R24: while `BUSY` is 1 there is no error. -/
theorem ResultInv.ecode_of_busy {s : State} (hi : ResultInv s) (hb : s.busy = true) : s.ecode = 0#2 := by
  have hd := hi.busyNotDone hb
  by_contra h
  simp [hi.errorIsDone h] at hd

/-! ### The statements -/

/-- Settles O18: the script's next answer or, where it has ended, the free value of the draw counter. -/
theorem answersFollowTheScript : Obligations.AnswersFollowTheScript := by
  unfold Obligations.AnswersFollowTheScript
  refine ⟨fun s p ps h => ?_, fun s h => ⟨pinAnswer_free h, popPin_free h⟩⟩
  rw [pinAnswer_script h]
  exact ⟨rfl, rfl, rfl, popPin_script h⟩

/-- Settles O50, by cases on what one step can do. -/
theorem oneCallPerStep : Obligations.OneCallPerStep := by
  unfold Obligations.OneCallPerStep
  intro s t h
  cases step_machineStep h with
  | inertWrite | refuse | hostRead => exact .inl ⟨rfl, rfl, rfl⟩
  | accept hw hp => exact .inr (.inr (.inl ⟨hw, hp, rfl, rfl, rfl, rfl⟩))
  | rst hr => exact .inr (.inr (.inr ⟨hr, rfl, rfl, rfl⟩))
  | receiver t hq hm =>
    cases hm.atMostOneCall with
    | silent hs => exact .inl hs
    | delay c hc hs =>
      obtain ⟨htrace, hpins, hdraws⟩ := hs
      exact .inr (.inl ⟨c, htrace, fun hp => by simp [c.usesAnswer_iff.2 hp] at hc, fun _ _ _ => ⟨hpins, hdraws⟩⟩)
    | pin c hc hs =>
      obtain ⟨htrace, hpins, hdraws⟩ := hs
      refine .inr (.inl ⟨c, htrace, fun _ => ⟨hpins, by simpa using hdraws⟩, fun h1 h2 h3 => ?_⟩)
      rcases c.usesAnswer_iff.1 hc with hp | hp | hp
      · exact absurd hp h1
      · exact absurd hp h2
      · exact absurd hp h3

/-- Settles O51: the step raised an error or published a Reading, and before it there was neither. -/
theorem readEndsWithExactlyOneResult : Obligations.ReadEndsWithExactlyOneResult := by
  unfold Obligations.ReadEndsWithExactlyOneResult
  intro s t hi hb hr h ht
  rcases (step_machineStep h).busy_or_endsRead hb hr with hbusy | ⟨x, u, hok⟩ | ⟨u, hcode⟩
  · simp [hbusy] at ht
  · exact raise_holdsOneResult x (hok.trans (hi.ok_of_busy hb))
  · exact publish_holdsOneResult (hcode.trans (hi.ecode_of_busy hb))

end Sys2Proof.Machine

/-! ### The position of the sequencer (R11, R13, R14, R15) -/

namespace Sys2Proof.Machine

/-- R15: outside the sampler phases the sub-state is `POLL`. -/
theorem PositionInv.sub_poll {s : State} (hi : PositionInv s) (hp : samplerPhase s.phase = false) : s.sub = .poll := by
  cases hs : s.sub with
  | poll => rfl
  | wait => simp [(hi.waitLegal hs).1] at hp

/-- R206, R207: the end of a `READ` keeps `IDX` and leaves no invocation running. -/
theorem PositionInv.endOfRead {s t : State} (hi : PositionInv s) (hp : t.phase = Phase.idle) (hx : t.idx = s.idx)
    (hs : t.sub = .poll) : PositionInv t where
  phaseLegal := by simp [hp]
  indexLegal := hx ▸ hi.indexLegal
  indexStart := by simp [hp]
  indexEnd := by simp [hp]
  waitLegal := by simp [hs]

/-- R70, R164: a position from `H1_SET` to `ACK_HIGH`, entered with `IDX` 0. -/
theorem positionInv_beforeSampling {t : State} (hp : t.phase.toNat ≤ 8) (hx : t.idx = 0#7) (hs : t.sub = .poll) :
    PositionInv t where
  phaseLegal := by omega
  indexLegal := by simp [hx]
  indexStart _ _ := hx
  indexEnd h := by simp [h] at hp
  waitLegal := by simp [hs]

/-- R137: the entry into a sampling invocation. -/
theorem positionInv_inSample {t : State} (hp : t.phase = Phase.sample) (hx : t.idx.toNat < 80) (hs : t.sub = .poll) :
    PositionInv t where
  phaseLegal := by simp [hp]
  indexLegal := hx
  indexStart := by simp [hp]
  indexEnd := by simp [hp]
  waitLegal := by simp [hs]

/-- R116: while an invocation runs, the position stays and `SUB` goes on. -/
theorem PositionInv.invocationGoesOn {s t : State} (hi : PositionInv s) (hp : t.phase = s.phase) (hx : t.idx = s.idx)
    (hw : t.sub = .wait → samplerPhase t.phase = true ∧ t.cnt.toNat < 255) : PositionInv t where
  phaseLegal := hp ▸ hi.phaseLegal
  indexLegal := hx ▸ hi.indexLegal
  indexStart := hp ▸ hx ▸ hi.indexStart
  indexEnd := hp ▸ hx ▸ hi.indexEnd
  waitLegal := hw

/-- R163: the receiver's move leads from a position it enters to another. -/
theorem ReceiverStep.positionInv {s t : State} (h : ReceiverStep s t) (hi : PositionInv s) : PositionInv t := by
  cases h with
  | idle => exact hi
  | h1Hold hp | h2Hold hp | h1Set hp | h2Set hp | h3Set hp =>
    exact positionInv_beforeSampling (by simp) (hi.indexStart (by simp [hp]) (by simp [hp]))
      (hi.sub_poll (by simp [samplerPhase, hp]))
  | h3Hold hp | ackLow hp =>
    exact positionInv_beforeSampling (by simp) (hi.indexStart (by simp [hp]) (by simp [hp])) rfl
  | setFails c d e hp =>
    have hs : samplerPhase s.phase = false := by
      rcases hp with ⟨hp, -⟩ | ⟨hp, -⟩ | ⟨hp, -⟩ <;> simp [samplerPhase, hp]
    exact hi.endOfRead rfl rfl (hi.sub_poll hs)
  | wait => exact hi.invocationGoesOn rfl rfl nofun
  | pollFails e _ hs => exact hi.endOfRead rfl rfl hs
  | pollExpires _ hs => exact hi.endOfRead rfl rfl hs
  | pollMisses hp _ hc =>
    have hlt : s.cnt.toNat < 255 := by bv_omega
    exact hi.invocationGoesOn rfl rfl fun _ => ⟨hp, hlt⟩
  | ackHigh => exact positionInv_inSample rfl (by simp) rfl
  | sampleLast hp hs hx =>
    exact {
      phaseLegal := by simp
      indexLegal := hi.indexLegal
      indexStart := by simp
      indexEnd := fun _ => hx
      waitLegal := by simp [hs] }
  | sampleMore hp hs hx => exact positionInv_inSample rfl (by simp; bv_omega) rfl
  | frameAccepted hp | frameRejected hp => exact hi.endOfRead rfl rfl (hi.sub_poll (by simp [samplerPhase, hp]))

/-- R33, R161, R230: so does every move of the host. -/
theorem MachineStep.positionInv {s t : State} (h : MachineStep s t) (hi : PositionInv s) : PositionInv t := by
  have hpop : PositionInv (popHost s) := ⟨hi.phaseLegal, hi.indexLegal, hi.indexStart, hi.indexEnd, hi.waitLegal⟩
  cases h with
  | inertWrite | refuse => exact hpop
  | accept => exact positionInv_beforeSampling (by simp) rfl rfl
  | hostRead => exact ⟨hi.phaseLegal, hi.indexLegal, hi.indexStart, hi.indexEnd, hi.waitLegal⟩
  | rst => exact positionInv_beforeSampling (by simp) rfl rfl
  | receiver t _ hm => exact hm.positionInv hpop

/-! ### The status flags and the result registers (R18, R19, R21, R24) -/

/-- What `ResultInv` reads beside `BUSY`: the constants, the flags and the result registers. -/
def State.resultRegs (s : State) :
    Settings × (Bool × Bool × BitVec 2) × (Vector Byte 4 × Variant) × (Byte × Byte) × Nat :=
  (s.cfg, (s.done, s.ok, s.ecode), (s.data, s.rvar), (s.ckexp, s.ckact), s.ioerr)

/-- A step that leaves the flags and the result registers alone, and sets `BUSY` only where no result stands. -/
theorem ResultInv.of_resultRegs_eq {s t : State} (hi : ResultInv s) (hr : t.resultRegs = s.resultRegs)
    (hb : t.busy = true → s.done = false) : ResultInv t := by
  rcases s with ⟨⟩
  rcases t with ⟨⟩
  cases hr
  exact ⟨hb, hi.okIsDone, hi.errorIsDone, hi.doneIsResult, hi.dataCleared, hi.checkCleared, hi.ioCleared, hi.ioWidth,
    hi.tagIsVariant⟩

/-- The flags and the result registers as reset and acceptance leave them (R30, R164). -/
theorem resultInv_of_cleared {t : State}
    (hr : t.resultRegs = (t.cfg, (false, false, 0#2), (Vector.replicate 4 0#8, .lowres), (0#8, 0#8), 0)) :
    ResultInv t := by
  simp only [State.resultRegs, Prod.mk.injEq] at hr
  obtain ⟨-, ⟨hdone, hok, hecode⟩, ⟨hdata, hrvar⟩, ⟨hckexp, hckact⟩, hioerr⟩ := hr
  exact {
    busyNotDone := fun _ => hdone
    okIsDone := by simp [hok]
    errorIsDone := by simp [hecode]
    doneIsResult := by simp [hdone]
    dataCleared := fun _ => ⟨hdata, hrvar⟩
    checkCleared := fun _ => ⟨hckexp, hckact⟩
    ioCleared := fun _ => hioerr
    ioWidth := by rw [hioerr]; exact Nat.two_pow_pos _
    tagIsVariant := by simp [hok] }

/-- R206: an error raised while `BUSY` is 1, when no result stands, is recorded alone. -/
theorem ResultInv.after_raise {s : State} (hi : ResultInv s) (hb : s.busy = true) (x : ReadError)
    (hx : ∀ e, x = .io e → e < 2 ^ s.cfg.ioerrW) : ResultInv (raise x s) := by
  have hok := hi.ok_of_busy hb
  have hecode := hi.ecode_of_busy hb
  have hcheck := hi.checkCleared (by simp [hecode])
  have hio := hi.ioCleared (by simp [hecode])
  exact {
    busyNotDone := by simp [State.busy]
    okIsDone := by simp [hok]
    errorIsDone := by simp [hok]
    doneIsResult := fun _ => .inr (by cases x <;> simp [ReadError.code])
    dataCleared := fun _ => by simpa using hi.dataCleared hok
    checkCleared := by cases x <;> simp [ReadError.code, hcheck]
    ioCleared := by cases x <;> simp [ReadError.code, hio]
    ioWidth := by
      cases x with
      | io e => exact hx e rfl
      | timeout | checksum => exact hi.ioWidth
    tagIsVariant := by simp [hok] }

/-- R151: so is a Reading published while `BUSY` is 1; its tag is `VARIANT` (R105). -/
theorem ResultInv.after_publish {s : State} (hi : ResultInv s) (hb : s.busy = true) : ResultInv (publish s) := by
  have hecode := hi.ecode_of_busy hb
  exact {
    busyNotDone := by simp [publish, State.busy]
    okIsDone := fun _ => ⟨rfl, hecode⟩
    errorIsDone := fun h => absurd hecode h
    doneIsResult := fun _ => .inl rfl
    dataCleared := nofun
    checkCleared := hi.checkCleared
    ioCleared := hi.ioCleared
    ioWidth := hi.ioWidth
    tagIsVariant := fun _ => rfl }

theorem busy_of_phase {s : State} {p : BitVec 4} (h : s.phase = p) (hp : p ≠ Phase.idle) : s.busy = true := by
  simpa [State.busy, h] using hp

/-- R15: an invocation runs only while `BUSY` is 1. -/
theorem busy_of_samplerPhase {s : State} (h : samplerPhase s.phase = true) : s.busy = true := by
  simp only [samplerPhase, Bool.or_eq_true, beq_iff_eq] at h
  rcases h with (h | h) | h <;> exact busy_of_phase h (by decide)

/-- R205: from a busy position, where no result stands, the receiver's move writes no result register, or records one
error, or publishes a Reading. -/
theorem ReceiverStep.resultInv {s t : State} (h : ReceiverStep s t) (hi : ResultInv s) : ResultInv t := by
  -- A move that ends no `READ`, and the state in which an error is raised.
  have moves (hb : s.busy = true) {u : State} (hr : u.resultRegs = s.resultRegs) : ResultInv u :=
    hi.of_resultRegs_eq hr fun _ => hi.busyNotDone hb
  cases h with
  | idle => exact hi
  | h1Hold hp | h2Hold hp | h3Hold hp | h1Set hp | h2Set hp | h3Set hp | ackLow hp | ackHigh hp | sampleLast hp
  | sampleMore hp => exact moves (busy_of_phase hp (by decide)) rfl
  | wait hp | pollMisses hp => exact moves (busy_of_samplerPhase hp) rfl
  | setFails c d e hp hf =>
    have hb : s.busy = true := by
      rcases hp with ⟨hp, -⟩ | ⟨hp, -⟩ | ⟨hp, -⟩ <;> exact busy_of_phase hp (by decide)
    refine (moves hb (u := { recordCall c (popPin s) with drv := d }) rfl).after_raise hb _ fun e' he => ?_
    cases he
    exact pinAnswer_fault_lt (s := s) hf
  | pollFails e hp _ hf =>
    have hb := busy_of_samplerPhase hp
    refine (moves hb (u := recordCall .pinRead (popPin s)) rfl).after_raise hb _ fun e' he => ?_
    cases he
    exact pinAnswer_fault_lt (s := s) hf
  | pollExpires hp =>
    have hb := busy_of_samplerPhase hp
    exact (moves hb (u := recordCall .pinRead (popPin s)) rfl).after_raise hb _ nofun
  | frameAccepted hp =>
    have hb := busy_of_phase hp (by decide)
    exact (moves hb (u := { s with byte := assemble s.pulse }) rfl).after_publish hb
  | frameRejected hp =>
    have hb := busy_of_phase hp (by decide)
    exact (moves hb (u := { s with byte := assemble s.pulse }) rfl).after_raise hb _ nofun

/-- R164, R230: of the host's moves the acceptance and `rst` clear the result, the others leave it. -/
theorem MachineStep.resultInv {s t : State} (h : MachineStep s t) (hi : ResultInv s) : ResultInv t := by
  cases h with
  | inertWrite | refuse | hostRead => exact hi.of_resultRegs_eq rfl hi.busyNotDone
  | accept | rst => exact resultInv_of_cleared rfl
  | receiver t _ hm => exact hm.resultInv (hi.of_resultRegs_eq rfl hi.busyNotDone)

/-! ### The host's moves (R25, R26, R33, R70) -/

theorem step_of_hostRead {s : State} {r : BitVec 4} (h : s.host.head? = some (.read r)) :
    step s = .next (hostRead r (popHost s)) := by
  obtain ⟨q, hq⟩ := List.head?_eq_some_iff.1 h
  simp [step, fetch, popHost, hq]

theorem step_of_rst {s : State} (h : s.host.head? = some .rst) : step s = .next (assertReset (popHost s)) := by
  obtain ⟨q, hq⟩ := List.head?_eq_some_iff.1 h
  simp [step, fetch, popHost, hq]

theorem step_of_inertWrite {s : State} {r : BitVec 4} {v : BitVec 8} (h : s.host.head? = some (.write r v))
    (hn : ¬ (r = 0#4 ∧ v = 1#8)) : step s = .next (popHost s) := by
  obtain ⟨q, hq⟩ := List.head?_eq_some_iff.1 h
  rcases hostWrite_cases r v (popHost s) with ⟨hr, hv, -⟩ | ⟨-, hw⟩
  · exact absurd ⟨hr, hv⟩ hn
  · simp only [popHost, hq, List.tail_cons] at hw
    simp [step, fetch, popHost, hq, hw]

theorem step_of_readCommand {s : State} (h : s.host.head? = some (.write 0#4 1#8)) :
    step s = .next (if s.phase = Phase.idle then acceptRead (popHost s) else popHost s) := by
  obtain ⟨q, hq⟩ := List.head?_eq_some_iff.1 h
  simp [step, fetch, hostWrite, decodeWord, decodeCmd, exec, execRead, popHost, hq]

/-! ### The receiver's move, from its position (R66, R162) -/

theorem step_of_sample {s : State} (hq : HostQuiet s) (hp : s.phase = Phase.sample) (hn : s.idx.toNat < 80) :
    step s = .next (levelStep (idxHalf s.idx) (storeSample (idxPulse s.idx) (idxHalf s.idx)) (popHost s)) := by
  have hr : receiverMove (popHost s) = _ := receiverMove_sample (s := popHost s) hp hn
  simp [step, fetch_quiet hq, hr, exec, execSample, idxPulse_toNat_lt hn]

theorem step_of_plain {s : State} {i : Instr} (hq : HostQuiet s) (hp : plainPhase s.phase = some i)
    (hx : s.indexField = 0#7) : step s = exec i (popHost s) := by
  have hr : receiverMove (popHost s) = .run i (popHost s) := receiverMove_plain hp hx
  simp [step, fetch_quiet hq, hr]

/-! ### A step beside one with another `DRV` and another frame buffer (R12, R16, R17, 93 U8) -/

/-- `s` with another value of `DRV` and other contents of the frame buffer. -/
def State.overlay (s : State) (d : Bool) (ps : Vector Pulse 40) (bs : Vector Byte 5) : State :=
  { s with drv := d, pulse := ps, byte := bs }

/-- How the step from `s` to `t` carries the contents `ps` and `bs`, put in the place of those of `s`. -/
inductive FrameCarried (s t : State) (ps : Vector Pulse 40) (bs : Vector Byte 5) :
    Vector Pulse 40 → Vector Byte 5 → Prop
  /-- The step leaves the frame buffer alone and opens no window (R16). -/
  | kept : t.pulse = s.pulse → t.byte = s.byte → (∀ n, inWindow t n → inWindow s n) → FrameCarried s t ps bs ps bs
  /-- The step stores the count of invocation `IDX` (R137) and adds that half to the window. -/
  | stored (half : BitVec 6) (h : Level) (c : Byte) : half.toNat < 40 → t.pulse = storeHalf s.pulse half h c →
      t.byte = s.byte → (∀ n : Fin 80, inWindow t n → n.val = 2 * half.toNat + h.toNat ∨ inWindow s n) →
      FrameCarried s t ps bs (storeHalf ps half h c) bs
  /-- Nothing of `ps` and `bs` is left: both steps lead to the same contents. -/
  | replaced : FrameCarried s t ps bs t.pulse t.byte

/-- `v` is `t` but for `DRV` and the frame buffer, both carried along by the step from `s` to `t`. -/
def Overlaid (s t : State) (d : Bool) (ps : Vector Pulse 40) (bs : Vector Byte 5) (v : State) : Prop :=
  ∃ d' ps' bs', v = t.overlay d' ps' bs' ∧ (d = s.drv → d' = t.drv) ∧ FrameCarried s t ps bs ps' bs'

section
variable {s : State} {d : Bool} {ps : Vector Pulse 40} {bs : Vector Byte 5}

theorem raise_overlay (x : ReadError) : raise x (s.overlay d ps bs) = (raise x s).overlay d ps bs := by
  cases x <;> rfl

theorem not_inWindow {t : State} (hs : t.phase ≠ Phase.sample) (hd : t.phase ≠ Phase.decode) (n : Fin 80) :
    ¬ inWindow t n := by
  rintro (⟨h, -⟩ | h)
  · exact hs h
  · exact hd h

/-- A step that carries everything over, and leads outside the window. -/
theorem overlaid_outside {t : State} (hdrv : t.drv = s.drv) (hpulse : t.pulse = s.pulse) (hbyte : t.byte = s.byte)
    (hw : t.phase ≠ Phase.sample ∧ t.phase ≠ Phase.decode) : Overlaid s t d ps bs (t.overlay d ps bs) :=
  ⟨d, ps, bs, rfl, fun h => h.trans hdrv.symm,
    .kept hpulse hbyte fun n h => absurd h (not_inWindow hw.1 hw.2 n)⟩

theorem overlaid_raise (x : ReadError) {u : State} (hdrv : u.drv = s.drv) (hpulse : u.pulse = s.pulse)
    (hbyte : u.byte = s.byte) : Overlaid s (raise x u) d ps bs (raise x (u.overlay d ps bs)) := by
  rw [raise_overlay]
  exact overlaid_outside (by simpa) (by simpa) (by simpa) (by simp)

/-- R90, R91, R12: a set of the pin writes `DRV` and does not read it. -/
theorem setPin_overlaid (l : Level) {p : BitVec 4} (hp : p ≠ Phase.sample ∧ p ≠ Phase.decode) :
    Overlaid s (setPin l (goto p) s) d ps bs (setPin l (goto p) (s.overlay d ps bs)) := by
  have ha : pinAnswer (s.overlay d ps bs) = pinAnswer s := rfl
  unfold setPin
  rw [ha]
  cases (pinAnswer s).fault with
  | none => exact ⟨l, ps, bs, rfl, fun _ => rfl, .kept rfl rfl fun n h => absurd h (not_inWindow hp.1 hp.2 n)⟩
  | some e =>
    refine ⟨if (pinAnswer s).took then l else d, ps, bs, rfl, fun h => by simp [h], .kept rfl rfl fun n h => ?_⟩
    exact absurd h (not_inWindow (by simp) (by simp) n)

/-! R116: the row `POLL` as equations, one per outcome. -/

theorem pulseStep_fault (E : Level) (f : State → State) {e : Nat} (hs : s.sub = .poll)
    (hf : (pinAnswer s).fault = some e) : pulseStep E f s = raise (.io e) (recordCall .pinRead (popPin s)) := by
  simp [pulseStep, rdlv, hs, hf]

theorem pulseStep_expire {E : Level} (f : State → State) (hs : s.sub = .poll) (hf : (pinAnswer s).fault = none)
    (hl : (pinAnswer s).level ≠ E) (hc : s.cnt = 255#8) :
    pulseStep E f s = raise .timeout (recordCall .pinRead (popPin s)) := by
  simp [pulseStep, rdlv, judgePoll, maxTicks, hs, hf, hl, hc]

theorem pulseStep_miss {E : Level} (f : State → State) (hs : s.sub = .poll) (hf : (pinAnswer s).fault = none)
    (hl : (pinAnswer s).level ≠ E) (hc : s.cnt ≠ 255#8) :
    pulseStep E f s = { recordCall .pinRead (popPin s) with sub := .wait } := by
  simp [pulseStep, rdlv, judgePoll, maxTicks, hs, hf, hl, hc]

/-- R116, R118: a step of a running invocation reads neither `DRV` nor the frame buffer, given that the return of the
invocation does not either. -/
theorem levelStep_overlaid (l : Level) (f : State → State)
    (hf : Overlaid s (f (recordCall .pinRead (popPin s))) d ps bs
      (f (recordCall .pinRead (popPin (s.overlay d ps bs))))) :
    Overlaid s (levelStep l f s) d ps bs (levelStep l f (s.overlay d ps bs)) := by
  have ha : pinAnswer (s.overlay d ps bs) = pinAnswer s := rfl
  have hE : expectedLevel (s.overlay d ps bs).cfg.sense l = expectedLevel s.cfg.sense l := rfl
  unfold levelStep
  rw [hE]
  cases hs : s.sub with
  | wait =>
    rw [pulseStep_wait _ _ hs, pulseStep_wait _ _ (s := s.overlay d ps bs) hs]
    exact ⟨d, ps, bs, rfl, id, .kept rfl rfl fun _ => id⟩
  | poll =>
    have hs' : (s.overlay d ps bs).sub = .poll := hs
    rcases pulseStep_poll (expectedLevel s.cfg.sense l) f hs with ⟨e, h1, h⟩ | ⟨h1, h2, h⟩ | ⟨h1, h2, h3, h⟩ |
      ⟨h1, h2, h3, h⟩ <;> rw [h]
    · rw [pulseStep_fault _ _ hs' (ha ▸ h1)]
      exact overlaid_raise _ rfl rfl rfl
    · rw [pulseStep_hit _ _ hs' (ha ▸ h1) (ha ▸ h2)]
      exact hf
    · rw [pulseStep_expire _ hs' (ha ▸ h1) (ha ▸ h2) h3]
      exact overlaid_raise _ rfl rfl rfl
    · rw [pulseStep_miss _ hs' (ha ▸ h1) (ha ▸ h2) h3]
      exact ⟨d, ps, bs, rfl, id, .kept rfl rfl fun _ => id⟩

/-- R137: the store of a count, after the poll that ended invocation `IDX`. -/
theorem storeSample_overlaid (hp : s.phase = Phase.sample) (hn : s.idx.toNat < 80) :
    Overlaid s (storeSample (idxPulse s.idx) (idxHalf s.idx) (recordCall .pinRead (popPin s))) d ps bs
      (storeSample (idxPulse s.idx) (idxHalf s.idx) (recordCall .pinRead (popPin (s.overlay d ps bs)))) := by
  have hidx := idxPulse_idxHalf_toNat s.idx
  have hlt := idxPulse_toNat_lt hn
  by_cases h79 : s.idx.toNat = 79
  · rw [storeSample_last _ (hidx.trans h79), storeSample_last _ (hidx.trans h79)]
    refine ⟨d, _, bs, rfl, id, .stored _ _ s.cnt hlt rfl rfl fun n _ => ?_⟩
    have := n.isLt
    by_cases hn : n.val = 79
    · exact .inl (by omega)
    · exact .inr (.inl ⟨hp, by omega⟩)
  · rw [storeSample_more _ (hidx ▸ h79), storeSample_more _ (hidx ▸ h79), idxOf_idxPulse_idxHalf]
    refine ⟨d, _, bs, rfl, id, .stored _ _ s.cnt hlt rfl rfl ?_⟩
    rintro n (⟨-, h⟩ | h)
    · have hle : n.val < s.idx.toNat + 1 := by
        have : (s.idx + 1#7).toNat = s.idx.toNat + 1 := by bv_omega
        exact this ▸ h
      by_cases hn : n.val = s.idx.toNat
      · exact .inl (by omega)
      · exact .inr (.inl ⟨hp, by omega⟩)
    · simp at h

/-- R145, R152: the decoder reads `PULSE`, and writes `BYTE` before it reads it. -/
theorem judgeFrame_overlaid :
    Overlaid s (judgeFrame { s with byte := assemble s.pulse }) d s.pulse bs
      (judgeFrame { s.overlay d s.pulse bs with byte := assemble s.pulse }) := by
  by_cases h : expectedChecksum (assemble s.pulse) = actualChecksum (assemble s.pulse)
  · simp only [judgeFrame, if_pos h]
    exact ⟨d, _, _, rfl, id, .replaced⟩
  · simp only [judgeFrame, if_neg h]
    exact ⟨d, _, _, rfl, id, .replaced⟩

/-- A word that has no operand, in its phase. -/
theorem exec_overlaid {t : State} {i : Instr} (hi : plainPhase s.phase = some i) (he : exec i s = .next t)
    (hd : s.phase = Phase.decode → ps = s.pulse) :
    ∃ v, exec i (s.overlay d ps bs) = .next v ∧ Overlaid s t d ps bs v := by
  rcases plainPhase_cases hi with ⟨h, rfl⟩ | ⟨h, rfl⟩ | ⟨h, rfl⟩ | ⟨h, rfl⟩ | ⟨h, rfl⟩ | ⟨h, rfl⟩ | ⟨h, rfl⟩ |
      ⟨h, rfl⟩ | ⟨h, rfl⟩ | ⟨h, rfl⟩ <;> cases he <;> refine ⟨_, rfl, ?_⟩
  · exact overlaid_outside rfl rfl rfl (by simp [h])
  · exact setPin_overlaid _ (by decide)
  · exact overlaid_outside rfl rfl rfl (by simp)
  · exact setPin_overlaid _ (by decide)
  · exact overlaid_outside rfl rfl rfl (by simp)
  · exact setPin_overlaid _ (by decide)
  · exact overlaid_outside rfl rfl rfl (by simp)
  · exact levelStep_overlaid _ _ (overlaid_outside rfl rfl rfl (by simp))
  · refine levelStep_overlaid _ _ ⟨d, ps, bs, rfl, id, .kept rfl rfl ?_⟩
    rintro n (⟨-, hn⟩ | hn) <;> simp at hn
  · cases hd h
    exact judgeFrame_overlaid

/-- The host's script is no part of what is carried. -/
theorem Overlaid.of_popHost {t v : State} (h : Overlaid (popHost s) t d ps bs v) : Overlaid s t d ps bs v := by
  obtain ⟨d', ps', bs', hv, hdrv, hf⟩ := h
  refine ⟨d', ps', bs', hv, hdrv, ?_⟩
  cases hf with
  | kept hp hb hw => exact .kept hp hb hw
  | stored half l c hlt hp hb hw => exact .stored half l c hlt hp hb hw
  | replaced => exact .replaced

/-- R12, R16, R118: with another `DRV` and another frame buffer, the same outside `DECODE`, a step does the same to the
rest. -/
theorem step_overlaid {t : State} (h : step s = .next t) (hd : s.phase = Phase.decode → ps = s.pulse) :
    ∃ v, step (s.overlay d ps bs) = .next v ∧ Overlaid s t d ps bs v := by
  rcases step_inversion h with ⟨r, v, h1, h2, rfl⟩ | ⟨h1, rfl⟩ | ⟨r, h1, rfl⟩ | ⟨h1, rfl⟩ | ⟨hq, hp, hn, rfl⟩ |
    ⟨hq, i, hp, hx, he⟩
  · exact ⟨_, step_of_inertWrite (s := s.overlay d ps bs) h1 h2, d, ps, bs, rfl, id, .kept rfl rfl fun _ => id⟩
  · refine ⟨_, step_of_readCommand (s := s.overlay d ps bs) h1, ?_⟩
    by_cases hp : s.phase = Phase.idle
    · rw [if_pos hp, if_pos (show (s.overlay d ps bs).phase = _ from hp)]
      exact overlaid_outside rfl rfl rfl (by simp)
    · rw [if_neg hp, if_neg (show (s.overlay d ps bs).phase ≠ _ from hp)]
      exact ⟨d, ps, bs, rfl, id, .kept rfl rfl fun _ => id⟩
  · exact ⟨_, step_of_hostRead (s := s.overlay d ps bs) h1, d, ps, bs, rfl, id, .kept rfl rfl fun _ => id⟩
  · exact ⟨_, step_of_rst (s := s.overlay d ps bs) h1, true, _, _, rfl, fun _ => rfl, .replaced⟩
  · exact ⟨_, step_of_sample (s := s.overlay d ps bs) hq hp hn,
      (levelStep_overlaid (s := popHost s) _ _ (storeSample_overlaid hp hn)).of_popHost⟩
  · rw [step_of_plain (s := s.overlay d ps bs) hq hp hx]
    obtain ⟨v, hv, ho⟩ := exec_overlaid (s := popHost s) (d := d) (bs := bs) hp he hd
    exact ⟨v, hv, ho.of_popHost⟩

/-- The carried contents are those of `t` where the step began with those of `s`. -/
theorem FrameCarried.eq_of_own_frame {t : State} {ps' : Vector Pulse 40} {bs' : Vector Byte 5}
    (h : FrameCarried s t s.pulse s.byte ps' bs') : ps' = t.pulse ∧ bs' = t.byte := by
  cases h with
  | kept hp hb | stored _ _ _ _ hp hb => exact ⟨hp.symm, hb.symm⟩
  | replaced => exact ⟨rfl, rfl⟩

/-- R16: contents that agree in the window before the step agree in the window after it. -/
theorem FrameCarried.window {t : State} {ps' : Vector Pulse 40} {bs' : Vector Byte 5}
    (h : FrameCarried s t ps bs ps' bs') (hw : ∀ n, inWindow s n → halfAt ps n = halfAt s.pulse n) (n : Fin 80)
    (hn : inWindow t n) : halfAt ps' n = halfAt t.pulse n := by
  cases h with
  | kept hp _ hwin => rw [hp, hw n (hwin n hn)]
  | stored half hl c hlt hp _ hwin =>
    rw [hp, halfAt_storeHalf _ _ _ hlt, halfAt_storeHalf _ _ _ hlt]
    by_cases he : n.val = 2 * half.toNat + hl.toNat
    · rw [if_pos he, if_pos he]
    · rw [if_neg he, if_neg he, hw n ((hwin n hn).resolve_left he)]
  | replaced => rfl

end

/-! ### The host registers (R24, R26) -/

/-- R24: `STATUS` as a number. -/
theorem status_toNat (s : State) :
    s.status.toNat = s.busy.toNat + 2 * s.done.toNat + 4 * s.ok.toNat + 8 * s.ecode.toNat
      + 32 * (variantBit s.rvar).toNat := by
  have key : ∀ (rvar ok done busy : Bool) (ecode : BitVec 2),
      (0#2 ++ BitVec.ofBool rvar ++ ecode ++ BitVec.ofBool ok ++ BitVec.ofBool done ++ BitVec.ofBool busy).toNat
        = busy.toNat + 2 * done.toNat + 4 * ok.toNat + 8 * ecode.toNat + 32 * rvar.toNat := by decide
  exact key _ _ _ _ _

theorem hostValue_status (s : State) : hostValue s 0x2#4 = s.status.toNat := rfl

/-- R26: the reserved register numbers read 0. -/
theorem hostValue_reserved (s : State) {r : BitVec 4} (h : 0xB ≤ r.toNat) : hostValue s r = 0 := by
  have hne : ∀ k : BitVec 4, k.toNat < 0xB → r ≠ k := by
    rintro k hk rfl
    omega
  simp [hostValue, hne]

/-! ### The statements -/

/-- Settles O45, by cases on what one step can do. -/
theorem stepKeepsThePosition : Obligations.StepKeepsThePosition := by
  unfold Obligations.StepKeepsThePosition
  exact fun s t hi h => (step_machineStep h).positionInv hi

/-- Settles O46, by cases on what one step can do. -/
theorem stepKeepsTheResult : Obligations.StepKeepsTheResult := by
  unfold Obligations.StepKeepsTheResult
  exact fun s t hi h => (step_machineStep h).resultInv hi

/-- Settles O56: the second state is the first with another frame buffer, equal in the window; in `DECODE` the window is
the whole of `PULSE`. -/
theorem staleFrameIsUnobservable : Obligations.StaleFrameIsUnobservable := by
  unfold Obligations.StaleFrameIsUnobservable
  rintro s u t ⟨hu, hw⟩ h
  have hu : u = s.overlay s.drv u.pulse u.byte := hu
  have hd : s.phase = Phase.decode → u.pulse = s.pulse := fun hp => pulse_ext_halfAt fun n => hw n (.inr hp)
  obtain ⟨v, hv, d, ps, bs, rfl, hdrv, hf⟩ := step_overlaid (d := s.drv) (bs := u.byte) h hd
  cases hdrv rfl
  rw [hu]
  exact ⟨t.overlay t.drv ps bs, hv, ⟨rfl, hf.window hw⟩, fun r => rfl⟩

/-- Settles O34. -/
theorem statusLayout : Obligations.StatusLayout := by
  unfold Obligations.StatusLayout
  intro s
  rw [hostValue_status, status_toNat]
  have hbusy : s.busy.toNat = if s.phase = Phase.idle then 0 else 1 := by
    by_cases hp : s.phase = Phase.idle <;> simp [State.busy, hp]
  have hrvar : 32 * (variantBit s.rvar).toNat = if s.rvar = .hires then 32 else 0 := by
    cases s.rvar <;> rfl
  rw [hbusy, hrvar]
  cases s.done <;> cases s.ok <;> simp

/-- Settles O54: no move writes the constants. -/
theorem constantsAreNeverWritten : Obligations.ConstantsAreNeverWritten := by
  unfold Obligations.ConstantsAreNeverWritten
  intro s t h
  cases step_machineStep h with
  | inertWrite | accept | refuse | hostRead | rst => rfl
  | receiver t _ hm => cases hm <;> rfl

/-- Settles O55: the other state is the first with another `DRV` and its own frame buffer. -/
theorem drvIsNeverRead : Obligations.DrvIsNeverRead := by
  unfold Obligations.DrvIsNeverRead
  intro s t d h
  obtain ⟨v, hv, d', ps, bs, rfl, -, hf⟩ := step_overlaid (d := d) (bs := s.byte) h fun _ => rfl
  obtain ⟨rfl, rfl⟩ := hf.eq_of_own_frame
  exact ⟨d', hv⟩

/-- Settles O9. -/
theorem hostAccessesAreInert : Obligations.HostAccessesAreInert := by
  unfold Obligations.HostAccessesAreInert
  refine ⟨fun s r q h => ?_, fun s r v q h hn => ?_⟩
  · rw [step_of_hostRead (by rw [h]; rfl), hostRead, popHost, h]
    rfl
  · rw [step_of_inertWrite (by rw [h]; rfl) (not_and_or.2 hn), popHost, h]
    rfl

/-- Settles O35. -/
theorem registerMap : Obligations.RegisterMap := by
  unfold Obligations.RegisterMap
  intro s
  have hcfg : s.configWord.toNat = if s.cfg.variant = .hires then 1 else 0 := by
    unfold State.configWord
    cases s.cfg.variant <;> rfl
  have hsdly : s.sdly.toNat = match s.cfg.variant with
      | .lowres => s.cfg.startDelayLowres.toNat
      | .hires => s.cfg.startDelayHires.toNat := by
    unfold State.sdly
    cases s.cfg.variant <;> rfl
  exact ⟨rfl, hcfg, rfl, rfl, rfl, rfl, rfl, rfl, rfl, hsdly, fun r hr => hostValue_reserved s hr⟩

/-- Settles O42: `State.reset` holds these values. -/
theorem resetLeavesTheSpecsValues : Obligations.ResetLeavesTheSpecsValues := by
  unfold Obligations.ResetLeavesTheSpecsValues
  exact ⟨rfl, rfl, rfl, rfl, rfl, rfl, rfl, rfl, rfl, rfl, by rw [hostValue_status, status_toNat]; rfl, rfl⟩

/-- Settles O44. -/
theorem resetMeetsTheInvariants : Obligations.ResetMeetsTheInvariants := by
  unfold Obligations.ResetMeetsTheInvariants
  exact ⟨positionInv_beforeSampling (by decide) rfl rfl, resultInv_of_cleared rfl, ⟨by decide, fun _ => rfl⟩⟩

end Sys2Proof.Machine

/-! ### The encoding (R65, R66, R69, R70) -/

namespace Sys2Proof.Machine

/-- R66: a sequencer word is its two fields. -/
theorem seqPhase_append_seqIndex (w : BitVec 11) : seqPhase w ++ seqIndex w = w :=
  (BitVec.extractLsb'_append_extractLsb'_eq_extractLsb' rfl).trans BitVec.extractLsb'_eq_self

/-- R14: the fields of `IDX = i : h`. -/
theorem idxPulse_idxOf (i : BitVec 6) (h : Level) : idxPulse (idxOf i h) = i := by
  revert i h; decide

theorem idxHalf_idxOf (i : BitVec 6) (h : Level) : idxHalf (idxOf i h) = h := by
  revert i h; decide

/-- R70: the operand of `SAMPLE` that the encoding admits. -/
theorem wellFormed_sample_iff (i : BitVec 6) (h : Level) : (Instr.sample i h).wellFormed = true ↔ i.toNat < 40 :=
  decide_eq_true_iff

/-- R14, R70: pulse indices below 40 give `IDX` below 80. -/
theorem idxOf_toNat_lt {i : BitVec 6} (h : Level) (hi : i.toNat < 40) : (idxOf i h).toNat < 80 := by
  have := h.toNat_le
  rw [idxOf_toNat]
  omega

/-- R65: the one command. -/
theorem decodeCmd_eq_instr_iff (v : BitVec 8) (i : Instr) : decodeCmd v = .instr i ↔ v = cmdRead ∧ i = .read := by
  unfold decodeCmd
  by_cases hv : v = cmdRead
  · rw [if_pos hv]
    simp [hv, eq_comm]
  · rw [if_neg hv]
    simp [hv]

/-- R69, R70: a sequencer word stands for `SAMPLE` with an index below 80, or for the operation of its phase, with
index 0. -/
theorem decodeSeq_eq_instr_iff (w : BitVec 11) (i : Instr) :
    decodeSeq w = .instr i ↔
      (seqPhase w = Phase.sample ∧ (seqIndex w).toNat < 80 ∧
        i = .sample (idxPulse (seqIndex w)) (idxHalf (seqIndex w))) ∨
      (plainPhase (seqPhase w) = some i ∧ seqIndex w = 0#7) := by
  unfold decodeSeq
  by_cases hp : seqPhase w = Phase.sample
  · have hnone : plainPhase Phase.sample = none := by decide
    by_cases hn : (seqIndex w).toNat < 80 <;> simp [hp, hn, hnone, eq_comm]
  · cases hi : plainPhase (seqPhase w) with
    | none => simp [hp]
    | some j => by_cases hn : seqIndex w = 0#7 <;> simp [hp, hn]

/-- R13, R69: the phases below 0xB other than `SAMPLE` have an operation of their own. -/
theorem exists_plainPhase_iff (p : BitVec 4) : (∃ i, plainPhase p = some i) ↔ p.toNat ≤ 0xA ∧ p ≠ Phase.sample := by
  have key : ∀ q : BitVec 4, (plainPhase q).isSome = true ↔ q.toNat ≤ 0xA ∧ q ≠ Phase.sample := by decide
  rw [← Option.isSome_iff_exists, key]

/-- R69: such an operation has no operand, and its word is the phase with index 0. -/
theorem encode_of_plainPhase {p : BitVec 4} {i : Instr} (h : plainPhase p = some i) :
    i.wellFormed = true ∧ encode i = seqOf p 0#7 := by
  rcases plainPhase_cases h with ⟨rfl, rfl⟩ | ⟨rfl, rfl⟩ | ⟨rfl, rfl⟩ | ⟨rfl, rfl⟩ | ⟨rfl, rfl⟩ | ⟨rfl, rfl⟩ |
    ⟨rfl, rfl⟩ | ⟨rfl, rfl⟩ | ⟨rfl, rfl⟩ | ⟨rfl, rfl⟩ <;> exact ⟨rfl, rfl⟩

theorem decodeWord_encode {i : Instr} (h : i.wellFormed = true) : decodeWord (encode i) = .instr i := by
  cases i with
  | sample n l =>
    have hn : n.toNat < 40 := (wellFormed_sample_iff n l).1 h
    refine (decodeSeq_eq_instr_iff _ _).2 (.inl ?_)
    rw [seqPhase_append, seqIndex_append, idxPulse_idxOf, idxHalf_idxOf]
    exact ⟨rfl, idxOf_toNat_lt l hn, rfl⟩
  | read | idle | h1Set | h1Hold | h2Set | h2Hold | h3Set | h3Hold | ackLow | ackHigh | decode => decide

theorem encode_of_decodeWord {w : CodeWord} {i : Instr} (h : decodeWord w = .instr i) :
    i.wellFormed = true ∧ encode i = w := by
  cases w with
  | cmd v =>
    obtain ⟨rfl, rfl⟩ := (decodeCmd_eq_instr_iff v i).1 h
    exact ⟨rfl, rfl⟩
  | seq w =>
    rcases (decodeSeq_eq_instr_iff w i).1 h with ⟨hp, hn, rfl⟩ | ⟨hp, hn⟩
    · refine ⟨(wellFormed_sample_iff _ _).2 (idxPulse_toNat_lt hn), ?_⟩
      rw [encode, idxOf_idxPulse_idxHalf, seqOf, ← hp, seqPhase_append_seqIndex]
    · obtain ⟨hw, he⟩ := encode_of_plainPhase hp
      refine ⟨hw, ?_⟩
      rw [he, ← hn, seqOf, seqPhase_append_seqIndex]

/-- R66, R70: the positions that have an operation. -/
theorem exists_decodeWord_seq_iff (p : BitVec 4) (n : BitVec 7) :
    (∃ i, decodeWord (.seq (p ++ n)) = .instr i) ↔
      p.toNat ≤ 0xA ∧ (p = Phase.sample → n.toNat < 80) ∧ (p ≠ Phase.sample → n = 0#7) := by
  simp only [decodeWord, decodeSeq_eq_instr_iff, seqPhase_append, seqIndex_append, exists_or, exists_and_left,
    exists_and_right, exists_plainPhase_iff, exists_eq]
  by_cases hp : p = Phase.sample <;> simp [hp]

/-! ### The bytes of a word (log 14) -/

theorem wordOfBytes_bytesOfWord (c : CodeWord) : wordOfBytes (bytesOfWord c) = some c := by
  cases c with
  | cmd v => rfl
  | seq w =>
    have hlt : ((w.extractLsb' 8 3).setWidth 8).toNat < 8 := by
      rw [BitVec.toNat_setWidth_of_le (by decide)]
      exact (w.extractLsb' 8 3).isLt
    have hw : ((w.extractLsb' 8 3).setWidth 8).extractLsb' 0 3 ++ w.extractLsb' 0 8 = w := by
      rw [← BitVec.setWidth_eq_extractLsb' (by decide), BitVec.setWidth_setWidth_of_le _ (by decide),
        BitVec.setWidth_eq]
      exact (BitVec.extractLsb'_append_extractLsb'_eq_extractLsb' rfl).trans BitVec.extractLsb'_eq_self
    simp only [bytesOfWord, wordOfBytes, if_pos hlt, hw]

theorem decodeBytes_bytesOfWord (c : CodeWord) : decodeBytes (bytesOfWord c) = decodeWord c := by
  rw [decodeBytes, wordOfBytes_bytesOfWord]

/-- The bytes of a sequencer word, numbered as the operation table numbers it. -/
theorem tableBytes_seq (w : BitVec 11) : tableBytes 16 w.toNat = bytesOfWord (.seq w) := by
  have hw : w.toNat < 65536 := by omega
  have hlo : BitVec.ofNat 8 w.toNat = w.extractLsb' 0 8 := by
    apply BitVec.eq_of_toNat_eq
    simp
  have hhi : BitVec.ofNat 8 (w.toNat / 256) = (w.extractLsb' 8 3).setWidth 8 := by
    apply BitVec.eq_of_toNat_eq
    simp [Nat.shiftRight_eq_div_pow]
    omega
  simp only [tableBytes, hw, hlo, hhi, bytesOfWord]
  rfl

theorem withFetchWord_seq (s : State) (w : BitVec 11) : s.withFetchWord 16 w.toNat = placeWord s (.seq w) := by
  rw [State.withFetchWord, tableBytes_seq, wordOfBytes_bytesOfWord]

/-! ### The step at a position (R66, R70, R162) -/

/-- R70: an operation that the encoding admits does not stop the block. -/
theorem exec_of_wellFormed {i : Instr} (h : i.wellFormed = true) (s : State) : ∃ t, exec i s = .next t := by
  cases i with
  | sample n l => exact ⟨_, if_pos ((wellFormed_sample_iff n l).1 h)⟩
  | _ => exact ⟨_, rfl⟩

theorem step_of_decodes {s : State} {i : Instr} (hq : HostQuiet s) (h : decodeWord (.seq s.seqWord) = .instr i) :
    step s = exec i (popHost s) := by
  have hw : decodeWord (.seq (popHost s).seqWord) = .instr i := h
  simp only [step, fetch_quiet hq, receiverMove, hw]

theorem step_of_reserved {s : State} {why : Reserved} (hq : HostQuiet s)
    (h : decodeWord (.seq s.seqWord) = .reserved why) : step s = .fault (.stuckSequencer why) := by
  have hw : decodeWord (.seq (popHost s).seqWord) = .reserved why := h
  simp only [step, fetch_quiet hq, receiverMove, hw]

/-- R33, R231: a host access runs in every position. -/
theorem step_of_not_hostQuiet {s : State} (h : ¬ HostQuiet s) : ∃ t, step s = .next t := by
  rcases fetch_host h with ⟨r, v, hh, -⟩ | ⟨r, hh, -⟩ | ⟨hh, -⟩
  · by_cases hrv : r = 0#4 ∧ v = 1#8
    · obtain ⟨rfl, rfl⟩ := hrv
      exact ⟨_, step_of_readCommand hh⟩
    · exact ⟨_, step_of_inertWrite hh hrv⟩
  · exact ⟨_, step_of_hostRead hh⟩
  · exact ⟨_, step_of_rst hh⟩

/-- R70: the block stops exactly where the host is quiet and the position has no operation. -/
theorem step_fault_iff (s : State) :
    (∃ f, step s = .fault f) ↔ HostQuiet s ∧ ¬ ∃ i, decodeWord (.seq s.seqWord) = .instr i := by
  by_cases hq : HostQuiet s
  · cases hd : decodeWord (.seq s.seqWord) with
    | instr i =>
      obtain ⟨t, ht⟩ := exec_of_wellFormed (encode_of_decodeWord hd).1 (popHost s)
      simp [step_of_decodes hq hd, ht]
    | reserved why => simp [step_of_reserved hq hd, hq]
  · obtain ⟨t, ht⟩ := step_of_not_hostQuiet hq
    simp [ht, hq]

/-- R70, 93 U14: the positions without an operation, in terms of the register `IDX` (log 7). -/
theorem reservedPosition_iff (s : State) :
    (¬ ∃ i, decodeWord (.seq s.seqWord) = .instr i) ↔
      0xB ≤ s.phase.toNat ∨ 80 ≤ s.idx.toNat ∨ (1 ≤ s.phase.toNat ∧ s.phase.toNat ≤ 8 ∧ s.idx ≠ 0#7) ∨
        (s.phase = Phase.decode ∧ s.idx ≠ 0#7 ∧ s.idx ≠ 79#7) := by
  rw [State.seqWord, exists_decodeWord_seq_iff, indexField_eq_zero_iff]
  by_cases hp : s.phase = Phase.sample
  · simp [hp, indexField_sample hp]
  · simp only [hp, false_implies, not_false_eq_true, true_implies, ne_eq, true_and]
    bv_omega

/-- R66: where a word that decodes is placed, it is the word of the position. -/
theorem seqWord_placeWord {w : BitVec 11} {i : Instr} (s : State) (h : decodeWord (.seq w) = .instr i) :
    (placeWord s (.seq w)).seqWord = w := by
  have hx : (placeWord s (.seq w)).indexField = seqIndex w := by
    rcases (decodeSeq_eq_instr_iff w i).1 h with ⟨hp, -, -⟩ | ⟨-, hn⟩
    · exact indexField_sample hp
    · rw [hn]
      exact (indexField_eq_zero_iff _).2 (.inl hn)
  rw [State.seqWord, hx]
  exact seqPhase_append_seqIndex w

/-! ### The statements -/

/-- Settles O1: the word of an operation has its phase and its index, and its bytes lose no bit of it. -/
theorem decodeOfEncodeIsTheInstruction : Obligations.DecodeOfEncodeIsTheInstruction := by
  unfold Obligations.DecodeOfEncodeIsTheInstruction
  intro i h
  exact ⟨decodeWord_encode h, (decodeBytes_bytesOfWord _).trans (decodeWord_encode h)⟩

/-- Settles O2. -/
theorem decodedWordIsTheEncoding : Obligations.DecodedWordIsTheEncoding := by
  unfold Obligations.DecodedWordIsTheEncoding
  exact fun w i h => encode_of_decodeWord h

/-- Settles O3. -/
theorem reservedWordsAreRefused : Obligations.ReservedWordsAreRefused := by
  unfold Obligations.ReservedWordsAreRefused
  refine ⟨fun v => ?_, exists_decodeWord_seq_iff⟩
  simp only [decodeWord, decodeCmd_eq_instr_iff, exists_and_left, exists_eq, and_true]

/-- Settles O8: the block stops where the position has no operation. -/
theorem stuckExactlyInReservedPositions : Obligations.StuckExactlyInReservedPositions := by
  unfold Obligations.StuckExactlyInReservedPositions
  intro s
  rw [step_fault_iff, reservedPosition_iff]

/-- Settles O4, by evaluation. -/
theorem tableWordsDecode : Obligations.TableWordsDecode := by
  unfold Obligations.TableWordsDecode
  decide

/-- Settles O5: the word of the statement is `State.seqWord`. -/
theorem stepRunsTheSequencerWord : Obligations.StepRunsTheSequencerWord := by
  unfold Obligations.StepRunsTheSequencerWord
  exact fun s i hq h => step_of_decodes hq h

/-- Settles O7: the placed word is the word of the position, or the host's next write. -/
theorem placedWordRunsNext : Obligations.PlacedWordRunsNext := by
  unfold Obligations.PlacedWordRunsNext
  refine ⟨fun s w i h => ?_, fun s => ?_⟩
  · rw [withFetchWord_seq, step_of_decodes (.inr rfl) (by rwa [seqWord_placeWord s h])]
    rfl
  · exact step_of_readCommand (s := placeWord s (.cmd cmdRead)) rfl

/-- Settles O25. -/
theorem sampleBeyondTheFrameIsStuck : Obligations.SampleBeyondTheFrameIsStuck := by
  unfold Obligations.SampleBeyondTheFrameIsStuck
  exact fun i h s hi => ⟨_, if_neg (Nat.not_lt.2 hi)⟩

end Sys2Proof.Machine

/-! ### The quantities of a Reading (R101 to R104, R106, R181) -/

namespace Sys2Proof.Machine

/-! R105, R108: each accessor goes by the Reading's own tag. -/

theorem humidityTenths_of_lowres {r : Reading} (h : r.variant = .lowres) :
    r.humidityTenths = humidityLowres r.data[0] r.data[1] := by
  simp [Reading.humidityTenths, h]

theorem humidityTenths_of_hires {r : Reading} (h : r.variant = .hires) :
    r.humidityTenths = humidityHires r.data[0] r.data[1] := by
  simp [Reading.humidityTenths, h]

theorem celsiusTenths_of_lowres {r : Reading} (h : r.variant = .lowres) :
    r.celsiusTenths = temperatureLowres r.data[2] r.data[3] := by
  simp [Reading.celsiusTenths, h]

theorem celsiusTenths_of_hires {r : Reading} (h : r.variant = .hires) :
    r.celsiusTenths = temperatureHires r.data[2] r.data[3] := by
  simp [Reading.celsiusTenths, h]

/-! The data bytes as numbers. -/

/-- R102, R103: the sign flag of a data byte. -/
theorem signFlag_eq (b : Byte) : b.getLsbD 7 = decide (128 ≤ b.toNat) := by
  rw [← BitVec.msb_eq_decide (w := 8), BitVec.msb_eq_getLsbD_last]

/-- A byte below some other bits. -/
theorem toNat_append_byte {n : Nat} (x : BitVec n) (b : Byte) : (x ++ b).toNat = 256 * x.toNat + b.toNat := by
  rw [BitVec.toNat_append, ← Nat.shiftLeft_add_eq_or_of_lt b.isLt, Nat.shiftLeft_eq, Nat.mul_comm]

/-- R104: unsigned, both bytes count in full. -/
theorem humidityHires_eq (integral decimal : Byte) :
    humidityHires integral decimal = 256 * (integral.toNat : Int) + decimal.toNat := by
  rw [humidityHires, toNat_append_byte]
  omega

/-- R103: the sign bit has no weight in the magnitude. -/
theorem magnitudeHires_eq (integral decimal : Byte) :
    magnitudeHires integral decimal = 256 * (integral.toNat % 128) + decimal.toNat := by
  rw [magnitudeHires, toNat_append_byte, BitVec.extractLsb'_toNat, Nat.shiftRight_zero]

/-- R102: the flag decides what the low nibble is added to. -/
theorem temperatureLowres_eq (integral decimal : Byte) :
    temperatureLowres integral decimal =
      (if 128 ≤ decimal.toNat then -10 - 10 * (integral.toNat : Int) else 10 * integral.toNat) +
        (decimal.toNat % 16 : Nat) := by
  simp only [temperatureLowres, signFlag_eq, decide_eq_true_eq, BitVec.extractLsb'_toNat, Nat.shiftRight_zero]

/-- R103: sign and magnitude. -/
theorem temperatureHires_eq (integral decimal : Byte) :
    temperatureHires integral decimal =
      if 128 ≤ integral.toNat then -(magnitudeHires integral decimal : Int) else magnitudeHires integral decimal := by
  simp only [temperatureHires, signFlag_eq, decide_eq_true_eq]

/-! ### The binary32 words the spec fixes (R106, R181) -/

theorem f32_celsius_of_stated {r : Reading} {w : BitVec 32}
    (h : statedF32 r.variant .temperatureCelsius r.data[2] r.data[3] = some w) : r.f32 .temperatureCelsius = w := by
  simp only [Reading.f32, h, Option.getD_some]

theorem f32_humidity_of_stated {r : Reading} {w : BitVec 32}
    (h : statedF32 r.variant .humidityPercent r.data[0] r.data[1] = some w) : r.f32 .humidityPercent = w := by
  simp only [Reading.f32, h, Option.getD_some]

/-- R181: where the Fahrenheit value is a half, it is the exact one, from whichever bytes and variant. -/
theorem f32_fahrenheit_of_halves {r : Reading} (h : r.celsiusTenths % 25 = 0) :
    r.f32 .temperatureFahrenheit = f32OfHalves (fahrenheitHundredths r.celsiusTenths / 50) := by
  simp only [Reading.f32, exactFahrenheitF32, if_pos h, Option.getD_some]

/-! ### The statements -/

/-- Settles O37. -/
theorem humidityTenths : Obligations.HumidityTenths := by
  unfold Obligations.HumidityTenths
  intro r
  have h0 := r.data[0].isLt
  have h1 := r.data[1].isLt
  have hlow (h : r.variant = .lowres) : r.humidityTenths = 10 * (r.data[0].toNat : Int) + r.data[1].toNat :=
    humidityTenths_of_lowres h
  have hhigh (h : r.variant = .hires) : r.humidityTenths = 256 * (r.data[0].toNat : Int) + r.data[1].toNat :=
    (humidityTenths_of_hires h).trans (humidityHires_eq _ _)
  refine ⟨fun h => ⟨hlow h, ?_⟩, fun h => ⟨hhigh h, ?_⟩, ?_⟩
  · rw [hlow h]
    omega
  · rw [hhigh h]
    omega
  · cases h : r.variant with
    | lowres =>
      rw [hlow h]
      omega
    | hires =>
      rw [hhigh h]
      omega

/-- Settles O38: the nibble is at most 15, which with the flag's degree taken gives the 5 tenths at the upper end. -/
theorem lowresTemperatureTenths : Obligations.LowresTemperatureTenths := by
  unfold Obligations.LowresTemperatureTenths
  intro r h
  have h2 := r.data[2].isLt
  rw [celsiusTenths_of_lowres h, temperatureLowres_eq]
  refine ⟨fun hclear => ?_, fun hset => ?_⟩
  · rw [if_neg (Nat.not_le.2 hclear)]
    omega
  · rw [if_pos hset]
    omega

/-- Settles O39: the sign bit, 128 of the integral byte, is what the magnitude leaves out. -/
theorem hiresTemperatureTenths : Obligations.HiresTemperatureTenths := by
  unfold Obligations.HiresTemperatureTenths
  intro r h
  have h2 := r.data[2].isLt
  have h3 := r.data[3].isLt
  rw [celsiusTenths_of_hires h, temperatureHires_eq, magnitudeHires_eq]
  refine ⟨fun hclear => ?_, fun hset => ?_⟩
  · rw [if_neg (Nat.not_le.2 hclear)]
    omega
  · rw [if_pos hset]
    omega

/-- Settles O41: the worked operands are rows of `statedF32`; the four Celsius values are multiples of 2.5 degrees. -/
theorem statedBinary32Values : Obligations.StatedBinary32Values := by
  unfold Obligations.StatedBinary32Values
  intro r
  refine ⟨fun hv hi hd => f32_celsius_of_stated (by rw [hv, hi, hd]; rfl),
    fun hv hi hd => f32_celsius_of_stated (by rw [hv, hi, hd]; rfl),
    fun hv hi hd => f32_celsius_of_stated (by rw [hv, hi, hd]; rfl),
    fun hv hi hd => f32_humidity_of_stated (by rw [hv, hi, hd]; rfl),
    fun hv hi hd => f32_celsius_of_stated (by rw [hv, hi, hd]; rfl), fun h => ?_, fun h => ?_, fun h => ?_, fun h => ?_⟩
  · rw [f32_fahrenheit_of_halves (by omega), h]
    decide
  · rw [f32_fahrenheit_of_halves (by omega), h]
    decide
  · rw [f32_fahrenheit_of_halves (by omega), h]
    decide
  · rw [f32_fahrenheit_of_halves (by omega), h]
    decide

end Sys2Proof.Machine

/-! ### The pulse sampler (R110 to R118) -/

namespace Sys2Proof.Machine

/-! #### One step of an invocation (R112, R113, R115, R116) -/

/-- R113, R115: where `E` ends the count, a sampler word is one step of `read_pulse(E)`. -/
theorem exec_eq_pulseStep {i : Instr} {l E : Level} {s : State} (hw : i.wellFormed = true)
    (hl : timedLevel i = some l) (hE : EndsCount s.cfg.sense l E) :
    ∃ onReturn : State → State, exec i s = .next (pulseStep E onReturn s) := by
  obtain ⟨f, hf⟩ := exec_samplerWord hw hl
  exact ⟨f, by rw [hf, levelStep, ← hE.eq_expectedLevel]⟩

/-- R96: one tick is one microsecond. -/
theorem traceUs_tick (cs : List Primitive) : traceUs (.delayUs 1#16 :: cs) = traceUs cs + 1 :=
  Nat.add_comm _ _

/-- Settles O19: the row `WAIT` of R116 expects no level, so any that ends the count will do. -/
theorem samplerWaitCountsOneTick : Obligations.SamplerWaitCountsOneTick := by
  unfold Obligations.SamplerWaitCountsOneTick
  intro i l s hw hl hs
  obtain ⟨f, hf⟩ := exec_eq_pulseStep hw hl (endsCount_expectedLevel s.cfg.sense l)
  rw [pulseStep_wait _ f hs] at hf
  exact ⟨_, hf, rfl, traceUs_tick s.trace⟩

/-- Settles O20. -/
theorem samplerMissGoesOnWaiting : Obligations.SamplerMissGoesOnWaiting := by
  unfold Obligations.SamplerMissGoesOnWaiting
  rintro i l E s hw hl hE hs ⟨hfault, hlevel⟩ hc
  obtain ⟨f, hf⟩ := exec_eq_pulseStep hw hl hE
  rw [hf, pulseStep_miss f hs hfault hlevel hc]
  rfl

/-- Settles O21. -/
theorem samplerTimesOutAtCount255 : Obligations.SamplerTimesOutAtCount255 := by
  unfold Obligations.SamplerTimesOutAtCount255
  rintro i l E s hw hl hE hs ⟨hfault, hlevel⟩ hc
  obtain ⟨f, hf⟩ := exec_eq_pulseStep hw hl hE
  rw [hf, pulseStep_expire f hs hfault hlevel hc]
  rfl

/-- Settles O22: a failed poll is judged before its level and before `CNT` (R113). -/
theorem samplerIoHasPrecedence : Obligations.SamplerIoHasPrecedence := by
  unfold Obligations.SamplerIoHasPrecedence
  intro i l s e hw hl hs hfault
  obtain ⟨f, hf⟩ := exec_eq_pulseStep hw hl (endsCount_expectedLevel s.cfg.sense l)
  rw [hf, pulseStep_fault _ f hs hfault]
  rfl

/-! #### A run of misses (R111, R114, R118) -/

/-- R115, R116: the receiver is left to run at a sampler word whose count `E` ends. No field that a poll or a tick
writes occurs here, so an invocation keeps it until it ends. -/
structure Awaits (s : State) (E : Level) : Prop where
  hostSilent  : s.host = []
  samplerWord : ∃ i l, decodeWord (.seq s.seqWord) = .instr i ∧ timedLevel i = some l ∧ EndsCount s.cfg.sense l E

theorem popHost_of_silent {s : State} (h : s.host = []) : popHost s = s := by
  cases s
  cases h
  rfl

/-- An error value's width does not matter to a read that succeeds. -/
theorem Misses.pinAnswer {s : State} {E : Level} {p : PinIn} {ps : List PinIn} (hm : Misses E p)
    (hp : s.pins = p :: ps) : Misses E (pinAnswer s) := by
  obtain ⟨hfault, hlevel⟩ := hm
  rw [pinAnswer_script hp]
  exact ⟨by rw [clipFault, hfault]; rfl, hlevel⟩

section
variable {s : State} {E : Level} {p : PinIn} {ps : List PinIn}

/-- The step of a receiver that awaits `E` is one step of a sampler word. -/
theorem Awaits.step_eq_exec (ha : Awaits s E) :
    ∃ i l, i.wellFormed = true ∧ timedLevel i = some l ∧ EndsCount s.cfg.sense l E ∧ step s = exec i s := by
  obtain ⟨hq, i, l, hd, hl, hE⟩ := ha
  refine ⟨i, l, (encode_of_decodeWord hd).1, hl, hE, ?_⟩
  rw [step_of_decodes (.inl (by rw [hq]; rfl)) hd, popHost_of_silent hq]

theorem Awaits.step_miss (ha : Awaits s E) (hs : s.sub = .poll) (hp : s.pins = p :: ps) (hm : Misses E p)
    (hc : s.cnt ≠ 255#8) :
    step s = .next { s with pins := ps, trace := .pinRead :: s.trace, sub := .wait } := by
  obtain ⟨i, l, hw, hl, hE, hstep⟩ := ha.step_eq_exec
  rw [hstep, samplerMissGoesOnWaiting i l E s hw hl hE hs (hm.pinAnswer hp) hc, popPin_script hp]

theorem Awaits.step_expire (ha : Awaits s E) (hs : s.sub = .poll) (hp : s.pins = p :: ps) (hm : Misses E p)
    (hc : s.cnt = 255#8) :
    step s = .next { s with
      pins := ps, trace := .pinRead :: s.trace, phase := Phase.idle, done := true, ecode := 2#2 } := by
  obtain ⟨i, l, hw, hl, hE, hstep⟩ := ha.step_eq_exec
  rw [hstep, samplerTimesOutAtCount255 i l E s hw hl hE hs (hm.pinAnswer hp) hc, popPin_script hp]

theorem Awaits.step_tick (ha : Awaits s E) (hs : s.sub = .wait) :
    step s = .next { s with trace := .delayUs 1#16 :: s.trace, cnt := s.cnt + 1#8, sub := .poll } := by
  obtain ⟨i, l, hw, hl, -, hstep⟩ := ha.step_eq_exec
  obtain ⟨t, ht, rfl, -⟩ := samplerWaitCountsOneTick i l s hw hl hs
  rw [hstep, ht]

/-- What `k` misses and their ticks leave: the next answer to come is the first of `rest`. -/
def State.afterMisses (s : State) (k : Nat) (rest : List PinIn) : State :=
  { s with cnt := s.cnt + BitVec.ofNat 8 k, pins := rest, trace := missedPolls k ++ s.trace }

theorem Awaits.afterMisses (ha : Awaits s E) (k : Nat) (rest : List PinIn) : Awaits (s.afterMisses k rest) E :=
  ⟨ha.hostSilent, ha.samplerWord⟩

/-- R118(b): a miss with budget left costs two steps, the poll and its tick. -/
theorem Awaits.runSteps_miss (ha : Awaits s E) (hs : s.sub = .poll) (hp : s.pins = p :: ps) (hm : Misses E p)
    (hc : s.cnt ≠ 255#8) : runSteps 2 s = .next (s.afterMisses 1 ps) := by
  have hwait : Awaits { s with pins := ps, trace := .pinRead :: s.trace, sub := .wait } E :=
    ⟨ha.hostSilent, ha.samplerWord⟩
  simp only [runSteps, ha.step_miss hs hp hm hc, hwait.step_tick rfl, State.afterMisses, missedPolls]
  simp [← hs]

theorem missedPolls_append (j k : Nat) : missedPolls j ++ missedPolls k = missedPolls (j + k) := by
  simp [missedPolls, ← List.replicate_append_replicate]

/-- The misses of an invocation add up. -/
theorem State.afterMisses_afterMisses (j k : Nat) (ps rest : List PinIn) :
    (s.afterMisses j ps).afterMisses k rest = s.afterMisses (k + j) rest := by
  have htrace : missedPolls k ++ (missedPolls j ++ s.trace) = missedPolls (k + j) ++ s.trace := by
    rw [← List.append_assoc, missedPolls_append]
  have hcnt : s.cnt + BitVec.ofNat 8 j + BitVec.ofNat 8 k = s.cnt + BitVec.ofNat 8 (k + j) := by
    rw [BitVec.add_assoc, ← BitVec.ofNat_add, Nat.add_comm]
  simp only [State.afterMisses, htrace, hcnt]

/-- R111, R114: while the budget of 255 lasts, each miss adds one to the count. -/
theorem Awaits.runSteps_misses (ha : Awaits s E) (hs : s.sub = .poll) {misses rest : List PinIn}
    (hp : s.pins = misses ++ rest) (hm : ∀ p ∈ misses, Misses E p) (hk : s.cnt.toNat + misses.length ≤ 255) :
    runSteps (2 * misses.length) s = .next (s.afterMisses misses.length rest) := by
  induction misses generalizing s with
  | nil =>
    simp [runSteps, State.afterMisses, missedPolls, ← show s.pins = rest from hp]
  | cons p misses ih =>
    rw [List.length_cons] at hk ⊢
    obtain ⟨hm_p, hm⟩ := List.forall_mem_cons.1 hm
    have hfirst : runSteps 2 s = .next (s.afterMisses 1 (misses ++ rest)) :=
      ha.runSteps_miss hs hp hm_p (by bv_omega)
    have hcnt : (s.afterMisses 1 (misses ++ rest)).cnt.toNat = s.cnt.toNat + 1 := by
      simp only [State.afterMisses]
      bv_omega
    have hrest := ih (ha.afterMisses 1 (misses ++ rest)) hs rfl hm (by omega)
    rw [Nat.mul_succ, Nat.add_comm, runSteps_add 2 _ hfirst, hrest, State.afterMisses_afterMisses]

end

/-- R96, R111: polls take no time, so `k` misses take `k` ticks. -/
theorem traceUs_missedPolls_append (k : Nat) (cs : List Primitive) :
    traceUs (missedPolls k ++ cs) = traceUs cs + k := by
  induction k with
  | zero => rfl
  | succ k ih =>
    have hcons : missedPolls (k + 1) ++ cs = .delayUs 1#16 :: .pinRead :: (missedPolls k ++ cs) := rfl
    rw [hcons, traceUs_tick, traceUs, ih, Primitive.us]
    omega

/-- At the entry of an invocation the count is the number of misses. -/
theorem State.afterMisses_of_entry {s : State} (hc : s.cnt = 0#8) (k : Nat) (rest : List PinIn) :
    s.afterMisses k rest = { s with
      cnt := BitVec.ofNat 8 k, pins := rest, trace := missedPolls k ++ s.trace } := by
  rw [State.afterMisses, hc, BitVec.zero_add]

/-- Settles O26, by induction on the list of misses. -/
theorem invocationCountsItsMisses : Obligations.InvocationCountsItsMisses := by
  unfold Obligations.InvocationCountsItsMisses
  intro s i l E misses rest hq hd hl hE hs hc hp hm hk
  have ha : Awaits s E := ⟨hq, i, l, hd, hl, hE⟩
  exact ⟨s.afterMisses misses.length rest, ha.runSteps_misses hs hp hm (by simpa [hc] using hk),
    State.afterMisses_of_entry hc _ _, traceUs_missedPolls_append _ _⟩

/-- Settles O27: 255 misses use up the budget, and the 256th poll expires without a tick (R112). -/
theorem invocationTimesOutAfter256Misses : Obligations.InvocationTimesOutAfter256Misses := by
  unfold Obligations.InvocationTimesOutAfter256Misses
  intro s i l E misses rest hq hd hl hE hs hc hp hm hk
  obtain ⟨counted, last, rfl⟩ := (List.eq_nil_or_concat misses).resolve_left (by rintro rfl; cases hk)
  have hcounted : counted.length = 255 := by simpa using hk
  have ha : Awaits s E := ⟨hq, i, l, hd, hl, hE⟩
  have hrun : runSteps 510 s = .next (s.afterMisses 255 (last :: rest)) := by
    have := ha.runSteps_misses hs (misses := counted) (rest := last :: rest) (by simpa using hp)
      (fun p h => hm p (by simp [h])) (by simp [hc, hcounted])
    rwa [hcounted] at this
  have hexpire := (ha.afterMisses 255 (last :: rest)).step_expire hs rfl (hm last (by simp))
    (by rw [State.afterMisses_of_entry hc])
  rw [runSteps_add 510 1 hrun, runSteps, hexpire, State.afterMisses_of_entry hc]
  rfl

end Sys2Proof.Machine

/-! ### The start signal and the acknowledgement (R90 to R94, R120 to R128) -/

namespace Sys2Proof.Machine

/-! #### A set of the pin, and the time one call takes -/

section
variable {s : State} (l : Level) (p : BitVec 4)

/-- R90, R91: a set that the pin answers. -/
theorem setPin_goto_of_ok (hf : (pinAnswer s).fault = none) :
    setPin l (goto p) s = { popPin s with
      drv := l, trace := (if l then .pinSetHigh else .pinSetLow) :: s.trace, phase := p } := by
  rw [setPin, hf]
  rfl

/-- R90, R91, D17: a set that fails; the answer says whether the level was taken nevertheless. -/
theorem setPin_goto_of_fault {e : Nat} (hf : (pinAnswer s).fault = some e) :
    setPin l (goto p) s = { popPin s with
      drv := (if (pinAnswer s).took then l else s.drv),
      trace := (if l then .pinSetHigh else .pinSetLow) :: s.trace, phase := Phase.idle, done := true, ecode := 1#2,
      ioerr := e } := by
  rw [setPin, hf]
  rfl

end

/-- R93, R94: the calls advance `T` one by one. -/
theorem State.time_of_trace_cons {s t : State} {c : Primitive} (h : t.trace = c :: s.trace) :
    t.time = s.time + c.us := by
  rw [State.time, h, traceUs, Nat.add_comm, State.time]

/-! #### The level commanded in each phase (R120, R207, R249) -/

/-- R121, R207: in `IDLE` and `H1_SET` any level may stand. -/
theorem lineInv_beforeFirstSet {t : State} (hp : t.phase = Phase.idle ∨ t.phase = Phase.h1Set) : LineInv t := by
  rcases hp with hp | hp <;> exact ⟨by simp [hp], by simp [hp]⟩

theorem lineInv_low {t : State} (hp : t.phase = Phase.h2Hold ∨ t.phase = Phase.h3Set) (hd : t.drv = false) :
    LineInv t := by
  refine ⟨fun _ => hd, ?_⟩
  rcases hp with hp | hp <;> simp [hp]

theorem lineInv_high {t : State} (hp : t.phase ≠ Phase.h2Hold ∧ t.phase ≠ Phase.h3Set) (hd : t.drv = true) :
    LineInv t :=
  ⟨fun h => by simp [hp] at h, fun _ => hd⟩

theorem LineInv.of_same_line {s t : State} (hi : LineInv s) (hp : t.phase = s.phase) (hd : t.drv = s.drv) :
    LineInv t :=
  ⟨by rw [hp, hd]; exact hi.startLow, by rw [hp, hd]; exact hi.releaseHigh⟩

/-- R163: the receiver's move sets the line where the level changes, and elsewhere keeps it. -/
theorem ReceiverStep.lineInv {s t : State} (h : ReceiverStep s t) (hi : LineInv s) : LineInv t := by
  cases h with
  | idle | wait | pollMisses => exact hi.of_same_line rfl rfl
  | h1Set | h3Set => exact lineInv_high (by simp) rfl
  | h2Set => exact lineInv_low (.inl rfl) rfl
  | h2Hold hp => exact lineInv_low (.inr rfl) (hi.startLow (.inl hp))
  | h1Hold hp | h3Hold hp | ackLow hp | ackHigh hp | sampleLast hp | sampleMore hp =>
    exact lineInv_high (by simp) (hi.releaseHigh (by simp [hp]))
  | setFails | pollFails | pollExpires | frameAccepted | frameRejected => exact lineInv_beforeFirstSet (.inl rfl)

/-- R33, R164, R230: the host's moves leave the line alone, or lead to `IDLE` or `H1_SET`. -/
theorem MachineStep.lineInv {s t : State} (h : MachineStep s t) (hi : LineInv s) : LineInv t := by
  cases h with
  | inertWrite | refuse | hostRead => exact hi.of_same_line rfl rfl
  | accept => exact lineInv_beforeFirstSet (.inr rfl)
  | rst => exact lineInv_beforeFirstSet (.inl rfl)
  | receiver t _ hm => exact hm.lineInv (hi.of_same_line rfl rfl)

/-! #### The statements -/

/-- Settles O47, by cases on what one step can do. -/
theorem stepKeepsTheLine : Obligations.StepKeepsTheLine := by
  unfold Obligations.StepKeepsTheLine
  exact fun s t hi h => (step_machineStep h).lineInv hi

/-- Settles O23: the poll is a hit for the level that ends the count, and the return enters the next invocation. -/
theorem acknowledgementsEndAtTheFirstHit : Obligations.AcknowledgementsEndAtTheFirstHit := by
  unfold Obligations.AcknowledgementsEndAtTheFirstHit
  intro s E hs hf hl
  refine ⟨fun hE => ?_, fun hE => ?_⟩
  · rw [exec, execAckLow, levelStep, pulseStep_hit _ _ hs hf (hl.trans hE.eq_expectedLevel)]
    rfl
  · rw [exec, execAckHigh, levelStep, pulseStep_hit _ _ hs hf (hl.trans hE.eq_expectedLevel)]
    rfl

/-- Settles O12: a set, then `H1_HOLD`. -/
theorem h1SetDrivesHigh : Obligations.H1SetDrivesHigh := by
  unfold Obligations.H1SetDrivesHigh
  exact fun s => ⟨fun hf => congrArg Host.Outcome.next (setPin_goto_of_ok Level.high _ hf),
    fun e hf => congrArg Host.Outcome.next (setPin_goto_of_fault Level.high _ hf)⟩

/-- Settles O13. -/
theorem h1HoldWaitsOneMillisecond : Obligations.H1HoldWaitsOneMillisecond := by
  unfold Obligations.H1HoldWaitsOneMillisecond
  exact fun s => ⟨_, rfl, rfl, State.time_of_trace_cons (c := .delayMs 1#16) rfl⟩

/-- Settles O14: a set, then `H2_HOLD`. -/
theorem h2SetPullsLow : Obligations.H2SetPullsLow := by
  unfold Obligations.H2SetPullsLow
  exact fun s => ⟨fun hf => congrArg Host.Outcome.next (setPin_goto_of_ok Level.low _ hf),
    fun e hf => congrArg Host.Outcome.next (setPin_goto_of_fault Level.low _ hf)⟩

/-- Settles O15. -/
theorem h2HoldWaitsTheStartDelay : Obligations.H2HoldWaitsTheStartDelay := by
  unfold Obligations.H2HoldWaitsTheStartDelay
  intro s
  have hlowres : s.cfg.variant = .lowres → s.sdly = s.cfg.startDelayLowres := fun hv => by
    rw [State.sdly, hv, startDelayUs]
  have hhires : s.cfg.variant = .hires → s.sdly = s.cfg.startDelayHires := fun hv => by
    rw [State.sdly, hv, startDelayUs]
  exact ⟨_, s.sdly, rfl, hlowres, hhires, rfl, State.time_of_trace_cons (c := .delayUs s.sdly) rfl⟩

/-- Settles O16: a set, then `H3_HOLD`. -/
theorem h3SetReleasesTheLine : Obligations.H3SetReleasesTheLine := by
  unfold Obligations.H3SetReleasesTheLine
  exact fun s => ⟨fun hf => congrArg Host.Outcome.next (setPin_goto_of_ok Level.high _ hf),
    fun e hf => congrArg Host.Outcome.next (setPin_goto_of_fault Level.high _ hf)⟩

/-- Settles O17. -/
theorem h3HoldWaitsFortyMicroseconds : Obligations.H3HoldWaitsFortyMicroseconds := by
  unfold Obligations.H3HoldWaitsFortyMicroseconds
  exact fun s => ⟨_, rfl, rfl, State.time_of_trace_cons (c := .delayUs 40#16) rfl⟩

end Sys2Proof.Machine

/-! ### The sampling loop (R135, R137, R163) -/

namespace Sys2Proof.Machine

/-- R115, R137: a poll that observes the level that ends the count returns, and the count is stored. -/
theorem exec_sample_hit {i : BitVec 6} {h E : Level} {s : State} (hi : i.toNat < 40)
    (hE : EndsCount s.cfg.sense h E) (hs : s.sub = .poll) (hf : (pinAnswer s).fault = none)
    (hl : (pinAnswer s).level = E) :
    exec (.sample i h) s = .next (storeSample i h (recordCall .pinRead (popPin s))) := by
  rw [exec, execSample, if_pos hi, levelStep, pulseStep_hit _ _ hs hf (hl.trans hE.eq_expectedLevel)]

/-- Settles O24: the buffer is the old one with the word's half set to the count; the last half is followed by
`DECODE`, every other by the next invocation. -/
theorem sampleStoresTheCount : Obligations.SampleStoresTheCount := by
  unfold Obligations.SampleStoresTheCount
  intro i h E s hi hE hs hf hl
  refine ⟨storeHalf s.pulse i h s.cnt, halfAt_storeHalf s.pulse h s.cnt hi, fun hlast => ?_, fun hmore => ?_⟩
  · rw [exec_sample_hit hi hE hs hf hl, storeSample_last _ hlast]
    rfl
  · rw [exec_sample_hit hi hE hs hf hl, storeSample_more _ hmore, idxOf_succ]
    rfl

end Sys2Proof.Machine

/-! ### The frame decoder (R145 to R155) -/

namespace Sys2Proof.Machine

/-! #### The comparator and the byte assembler (R146, R148) -/

/-- R148: the new bit is the least significant one. -/
theorem getLsbD_shiftIn_zero (b : Byte) (bit : Bool) : (shiftIn b bit).getLsbD 0 = bit := by
  simp [shiftIn]

/-- R148: the bits that were there move up by one. -/
theorem getLsbD_shiftIn_succ (b : Byte) (bit : Bool) {i : Nat} (hi : i + 1 < 8) :
    (shiftIn b bit).getLsbD (i + 1) = b.getLsbD i := by
  simp [shiftIn, hi, -BitVec.getLsbD_eq_getElem]

theorem assembleByte_concat (ps : List Pulse) (p : Pulse) :
    assembleByte (ps ++ [p]) = shiftIn (assembleByte ps) (pulseBit p) :=
  List.foldl_concat ..

/-- R148: the bits of a byte, from the least significant one, are those of its pulses, from the last one back. -/
theorem getLsbD_assembleByte (ps : List Pulse) {i : Nat} (hi : i < 8) :
    (assembleByte ps).getLsbD i = ps.reverse[i]?.elim false pulseBit := by
  induction ps using List.reverseRecOn generalizing i with
  | nil => simp [assembleByte]
  | append_singleton ps p ih =>
    rw [assembleByte_concat, List.reverse_concat]
    cases i with
    | zero => exact getLsbD_shiftIn_zero _ _
    | succ i => rw [getLsbD_shiftIn_succ _ _ hi, ih (by omega), List.getElem?_cons_succ]

/-- R46: pulse `k` of byte `j`, counted from the last of the byte. -/
theorem getElem?_reverse_pulsesOfByte (ps : Vector Pulse 40) {j k : Nat} (hj : j < 5) (hk : k < 8) :
    (pulsesOfByte ps j).reverse[7 - k]? = some ps[8 * j + k] := by
  have hlen : (pulsesOfByte ps j).length = 8 := by simp [pulsesOfByte]; omega
  have hidx : 8 - 1 - (7 - k) = k := by omega
  rw [List.getElem?_reverse (by omega), hlen, hidx]
  simp [pulsesOfByte, hk]

theorem getElem_assemble (ps : Vector Pulse 40) {j : Nat} (hj : j < 5) :
    (assemble ps)[j] = assembleByte (pulsesOfByte ps j) := by
  match j, hj with
  | 0, _ | 1, _ | 2, _ | 3, _ | 4, _ => rfl

/-- R44, R148: bit `7 - k` of byte `j` is the comparison of pulse `8 * j + k`. -/
theorem getLsbD_assemble (ps : Vector Pulse 40) {j k : Nat} (hj : j < 5) (hk : k < 8) :
    (assemble ps)[j].getLsbD (7 - k) = pulseBit ps[8 * j + k] := by
  rw [getElem_assemble ps hj, getLsbD_assembleByte _ (by omega), getElem?_reverse_pulsesOfByte ps hj hk,
    Option.elim_some]

theorem pulseBit_eq_true_iff (p : Pulse) : pulseBit p = true ↔ p.low.toNat < p.high.toNat :=
  decide_eq_true_iff

theorem carriesFrame_assemble (ps : Vector Pulse 40) : CarriesFrame ps (assemble ps) := by
  intro j k hj hk
  rw [getLsbD_assemble ps hj hk, pulseBit_eq_true_iff]

/-- R44: pulses carry one frame only. -/
theorem CarriesFrame.unique {ps : Vector Pulse 40} {b b' : Vector Byte 5} (hb : CarriesFrame ps b)
    (hb' : CarriesFrame ps b') : b = b' := by
  refine Vector.ext fun j hj => BitVec.eq_of_getLsbD_eq fun i hi => ?_
  have hbit : b[j].getLsbD (7 - (7 - i)) = b'[j].getLsbD (7 - (7 - i)) :=
    Bool.eq_iff_iff.2 ((hb j (7 - i) hj (by omega)).symm.trans (hb' j (7 - i) hj (by omega)))
  have hidx : 7 - (7 - i) = i := by omega
  rwa [hidx] at hbit

/-- R146, R148: the decoder assembles the frame that the pulses carry. -/
theorem CarriesFrame.assemble_eq {ps : Vector Pulse 40} {b : Vector Byte 5} (h : CarriesFrame ps b) :
    assemble ps = b :=
  (carriesFrame_assemble ps).unique h

/-- R145, R147: the frame depends on the comparisons of the durations alone. -/
theorem CarriesFrame.of_same_comparisons {ps qs : Vector Pulse 40} {b : Vector Byte 5} (h : CarriesFrame qs b)
    (hc : ∀ (n : Nat) (hn : n < 40), ps[n].low.toNat < ps[n].high.toNat ↔ qs[n].low.toNat < qs[n].high.toNat) :
    CarriesFrame ps b :=
  fun j k hj hk => (hc (8 * j + k) (by omega)).trans (h j k hj hk)

/-- R147: longer high pulses carry ones. -/
theorem carriesFrame_ones {ps : Vector Pulse 40}
    (h : ∀ (n : Nat) (hn : n < 40), ps[n].low.toNat < ps[n].high.toNat) :
    CarriesFrame ps (Vector.replicate 5 0xFF#8) := by
  have hones : ∀ k < 8, (0xFF#8).getLsbD (7 - k) = true := by decide
  intro j k hj hk
  simpa [hones k hk] using h (8 * j + k) (by omega)

/-- R147: shorter and equal high pulses carry zeros. -/
theorem carriesFrame_zeros {ps : Vector Pulse 40}
    (h : ∀ (n : Nat) (hn : n < 40), ps[n].high.toNat ≤ ps[n].low.toNat) :
    CarriesFrame ps (Vector.replicate 5 0x00#8) := by
  intro j k hj hk
  simpa using h (8 * j + k) (by omega)

/-! #### The checksum validator (R149 to R151, R155) -/

/-- R149: the comparison of the checksums, on byte values. -/
theorem expectedChecksum_eq_actualChecksum_iff (b : Vector Byte 5) :
    expectedChecksum b = actualChecksum b ↔
      (b[0].toNat + b[1].toNat + b[2].toNat + b[3].toNat) % 256 = b[4].toNat := by
  rw [expectedChecksum, actualChecksum, ← BitVec.toNat_inj, BitVec.toNat_ofNat]

/-- R151, R155: `DECODE` on a frame whose checksum matches. -/
theorem exec_decode_of_match {s : State} {b : Vector Byte 5} (hb : CarriesFrame s.pulse b)
    (h : (b[0].toNat + b[1].toNat + b[2].toNat + b[3].toNat) % 256 = b[4].toNat) :
    exec .decode s = .next (publish { s with byte := b }) := by
  rw [exec, execDecode, hb.assemble_eq, judgeFrame, if_pos ((expectedChecksum_eq_actualChecksum_iff b).2 h)]

/-- R150, R155: `DECODE` on any other frame. -/
theorem exec_decode_of_mismatch {s : State} {b : Vector Byte 5} (hb : CarriesFrame s.pulse b)
    (h : (b[0].toNat + b[1].toNat + b[2].toNat + b[3].toNat) % 256 ≠ b[4].toNat) :
    exec .decode s = .next (raise (.checksum (expectedChecksum b) (actualChecksum b)) { s with byte := b }) := by
  rw [exec, execDecode, hb.assemble_eq, judgeFrame, if_neg (mt (expectedChecksum_eq_actualChecksum_iff b).1 h)]

/-- R155: what both outcomes of the validator agree on. -/
theorem judgeFrame_proj {α : Type} {f : State → α} {s : State} {a : α} (hp : f (publish s) = a)
    (hr : ∀ x y, f (raise (.checksum x y) s) = a) : f (judgeFrame s) = a := by
  rcases judgeFrame_cases s with ⟨-, he⟩ | ⟨-, he⟩ <;> rw [he]
  · exact hp
  · exact hr _ _

@[simp] theorem judgeFrame_trace (s : State) : (judgeFrame s).trace = s.trace := judgeFrame_proj rfl fun _ _ => rfl
@[simp] theorem judgeFrame_pins (s : State) : (judgeFrame s).pins = s.pins := judgeFrame_proj rfl fun _ _ => rfl
@[simp] theorem judgeFrame_draws (s : State) : (judgeFrame s).draws = s.draws := judgeFrame_proj rfl fun _ _ => rfl
@[simp] theorem judgeFrame_pulse (s : State) : (judgeFrame s).pulse = s.pulse := judgeFrame_proj rfl fun _ _ => rfl
@[simp] theorem judgeFrame_byte (s : State) : (judgeFrame s).byte = s.byte := judgeFrame_proj rfl fun _ _ => rfl

/-- R145: the validator does not look at the pulses. -/
theorem judgeFrame_with_pulse (s : State) (ps : Vector Pulse 40) :
    judgeFrame { s with pulse := ps } = { judgeFrame s with pulse := ps } := by
  rcases judgeFrame_cases s with ⟨h, he⟩ | ⟨h, he⟩ <;> rw [he]
  · exact if_pos h
  · exact if_neg h

/-- R145, R165: where no Reading stands, the result registers then hold the pure decoder's answer. -/
theorem judgeFrame_result {s : State} (hok : s.ok = false) (hb : s.byte = assemble s.pulse) :
    (judgeFrame s).result = some (decodeFrame s.pulse s.cfg.variant) := by
  rcases judgeFrame_cases s with ⟨h, he⟩ | ⟨h, he⟩ <;> rw [he, decodeFrame, ← hb]
  · rw [publish_result, if_pos h]
  · rw [raise_result _ hok, if_neg h]

/-- R145: the contract of the pure decoder, a Reading or a `Checksum` error. -/
theorem decodeFrame_cases (ps : Vector Pulse 40) (v : Variant) :
    (∃ r, decodeFrame ps v = .reading r) ∨ (∃ a b, decodeFrame ps v = .error (.checksum a b)) := by
  by_cases h : expectedChecksum (assemble ps) = actualChecksum (assemble ps)
  · exact .inl ⟨_, if_pos h⟩
  · exact .inr ⟨_, _, if_neg h⟩

/-! #### The statements -/

/-- Settles O28: `BYTE` holds the assembled bytes in both outcomes. -/
theorem firstPulseIsTheMostSignificantBit : Obligations.FirstPulseIsTheMostSignificantBit := by
  unfold Obligations.FirstPulseIsTheMostSignificantBit
  intro s
  refine ⟨_, rfl, fun j k hj hk => ?_⟩
  simp only [judgeFrame_byte]
  exact getLsbD_assemble s.pulse hj hk

/-- Settles O29. -/
theorem checksumMatchPublishesTheReading : Obligations.ChecksumMatchPublishesTheReading := by
  unfold Obligations.ChecksumMatchPublishesTheReading
  exact fun s b hb h => exec_decode_of_match hb h

/-- Settles O30. -/
theorem checksumMismatchReportsBothValues : Obligations.ChecksumMismatchReportsBothValues := by
  unfold Obligations.ChecksumMismatchReportsBothValues
  exact fun s b hb h => exec_decode_of_mismatch hb h

/-- Settles O31: four bytes `0xFF` sum to `0x3FC`, and `0xFC` is not `0xFF`; four zeros sum to the fifth. -/
theorem uniformFrames : Obligations.UniformFrames := by
  unfold Obligations.UniformFrames
  exact fun s => ⟨fun h => ⟨_, exec_decode_of_mismatch (carriesFrame_ones h) (by decide), rfl, rfl, rfl, rfl⟩,
    fun h => ⟨_, exec_decode_of_match (carriesFrame_zeros h) (by decide), rfl, rfl, rfl⟩⟩

/-- Settles O32: both frame buffers carry the same frame, and the validator does not look at them. -/
theorem decodeSeesOnlyRelativeDurations : Obligations.DecodeSeesOnlyRelativeDurations := by
  unfold Obligations.DecodeSeesOnlyRelativeDurations
  intro s t ps hc ht
  have hframe : assemble ps = assemble s.pulse :=
    ((carriesFrame_assemble s.pulse).of_same_comparisons hc).assemble_eq
  cases ht
  simp only [exec, execDecode, hframe]
  exact congrArg Host.Outcome.next (judgeFrame_with_pulse { s with byte := assemble s.pulse } ps)

/-- Settles O33: the frame of both outcomes, and the pure decoder's answer in the result registers. -/
theorem decodeIsPure : Obligations.DecodeIsPure := by
  unfold Obligations.DecodeIsPure
  exact fun s => ⟨_, rfl, judgeFrame_trace _, congrArg traceUs (judgeFrame_trace _), judgeFrame_pins _,
    judgeFrame_draws _, judgeFrame_pulse _, fun hok _ => judgeFrame_result hok rfl,
    decodeFrame_cases s.pulse s.cfg.variant⟩

end Sys2Proof.Machine

/-! ### The command, and the table of transitions (R160 to R164) -/

namespace Sys2Proof.Machine

/-- R24, R26: the host registers show the constants, the flags, the result registers and `BUSY`. -/
theorem hostValue_eq_of_resultRegs {s t : State} (hr : t.resultRegs = s.resultRegs) (hb : t.busy = s.busy)
    (r : BitVec 4) : hostValue t r = hostValue s r := by
  simp only [State.resultRegs, Prod.mk.injEq] at hr
  obtain ⟨hcfg, ⟨hdone, hok, hecode⟩, ⟨hdata, hrvar⟩, ⟨hckexp, hckact⟩, hioerr⟩ := hr
  simp only [hostValue, State.configWord, State.status, State.sdly, hcfg, hdone, hok, hecode, hdata, hrvar, hckexp,
    hckact, hioerr, hb]

/-- R206: a move to `IDLE` leaves `BUSY` at 0. -/
theorem not_busy_of_idle {t : State} (hp : t.phase = Phase.idle) : t.busy ≠ true := by
  simp [State.busy, hp]

/-- R164: the receiver writes a result register only in the move that ends the `READ`. -/
theorem ReceiverStep.resultRegs_of_busy {s t : State} (h : ReceiverStep s t) (hb : t.busy = true) :
    t.resultRegs = s.resultRegs := by
  cases h with
  | idle | h1Hold | h2Hold | h3Hold | h1Set | h2Set | h3Set | wait | pollMisses | ackLow | ackHigh | sampleLast
  | sampleMore => rfl
  | setFails | pollFails | pollExpires | frameAccepted | frameRejected => exact absurd hb (not_busy_of_idle rfl)

/-- R161, R164: so does the host, whose command is refused while `BUSY` is 1. -/
theorem MachineStep.resultRegs_of_busy {s t : State} (h : MachineStep s t) (hs : s.busy = true)
    (ht : t.busy = true) : t.resultRegs = s.resultRegs := by
  cases h with
  | inertWrite | refuse | hostRead => rfl
  | accept _ hp => exact absurd hs (not_busy_of_idle hp)
  | rst => exact absurd ht (not_busy_of_idle rfl)
  | receiver t _ hm => exact hm.resultRegs_of_busy ht

/-! #### The table of transitions (R163) -/

/-- R163: what the receiver's move can do to the position. -/
inductive Transition (s t : State) : Prop
  /-- `IDLE`, or an invocation that goes on. -/
  | stays : t.phase = s.phase → t.idx = s.idx → s.phase = Phase.idle ∨ samplerPhase s.phase = true → Transition s t
  /-- The next phase in order, with a fresh invocation where one begins. -/
  | nextPhase : 1 ≤ s.phase.toNat → s.phase.toNat ≤ 9 → t.phase = s.phase + 1#4 →
      (s.phase = Phase.sample → s.idx = 79#7) → (t.phase = Phase.sample → t.idx = 0#7) →
      (samplerPhase t.phase = true → t.cnt = 0#8 ∧ t.sub = .poll) → Transition s t
  /-- The next invocation of the sampling loop. -/
  | nextIndex : s.phase = Phase.sample → s.idx.toNat < 79 → t.phase = Phase.sample → t.idx = s.idx + 1#7 →
      t.cnt = 0#8 → t.sub = .poll → Transition s t
  /-- The end of the `READ`, from a phase that can raise an error or publish. -/
  | ends : s.phase ≠ Phase.idle → s.phase ≠ Phase.h1Hold → s.phase ≠ Phase.h2Hold → s.phase ≠ Phase.h3Hold →
      t.phase = Phase.idle → t.done = true → Transition s t

/-- R206: the phases other than the holds and `IDLE` can end the `READ`. -/
theorem transition_ends {s t : State} {p : BitVec 4} (hs : s.phase = p)
    (hp : p ≠ Phase.idle ∧ p ≠ Phase.h1Hold ∧ p ≠ Phase.h2Hold ∧ p ≠ Phase.h3Hold) (ht : t.phase = Phase.idle)
    (hd : t.done = true) : Transition s t := by
  subst hs
  obtain ⟨h0, h1, h2, h3⟩ := hp
  exact .ends h0 h1 h2 h3 ht hd

theorem can_end_of_samplerPhase {p : BitVec 4} (h : samplerPhase p = true) :
    p ≠ Phase.idle ∧ p ≠ Phase.h1Hold ∧ p ≠ Phase.h2Hold ∧ p ≠ Phase.h3Hold := by
  revert p
  decide

/-- R163: the receiver's moves are the rows of the table. -/
theorem ReceiverStep.transition {s t : State} (h : ReceiverStep s t) : Transition s t := by
  cases h with
  | idle hp => exact .stays rfl rfl (.inl hp)
  | wait hp | pollMisses hp => exact .stays rfl rfl (.inr hp)
  | h1Hold hp | h2Hold hp | h1Set hp | h2Set hp | h3Set hp | h3Hold hp | ackLow hp | ackHigh hp =>
    exact .nextPhase (by simp [hp]) (by simp [hp]) (by simp [hp]) (by simp [hp]) (by simp) (by simp [samplerPhase])
  | sampleLast hp _ hx =>
    exact .nextPhase (by simp [hp]) (by simp [hp]) (by simp [hp]) (fun _ => hx) (by simp) (by simp [samplerPhase])
  | sampleMore hp _ hx => exact .nextIndex hp hx rfl rfl rfl rfl
  | setFails c d e hp =>
    rcases hp with ⟨hp, -⟩ | ⟨hp, -⟩ | ⟨hp, -⟩ <;> exact transition_ends hp (by decide) rfl rfl
  | pollFails _ hp | pollExpires hp => exact transition_ends rfl (can_end_of_samplerPhase hp) rfl rfl
  | frameAccepted hp | frameRejected hp => exact transition_ends hp (by decide) rfl rfl

theorem not_hostQuiet_of_head {s : State} {o : HostOp} (h : s.host.head? = some o) (ho : o ≠ .quiet) :
    ¬ HostQuiet s := by
  simp [HostQuiet, h, ho]

/-! #### The statements -/

/-- Settles O49: the host's accesses leave the position alone but for the acceptance, and the receiver's move is a
transition of the table. -/
theorem noOtherTransitions : Obligations.NoOtherTransitions := by
  unfold Obligations.NoOtherTransitions
  intro s t hr h
  cases step_machineStep h with
  | inertWrite _ _ hh | refuse hh | hostRead _ hh =>
    exact .inl ⟨rfl, fun _ => rfl, .inl (not_hostQuiet_of_head hh (by simp))⟩
  | accept hh hp => exact .inr (.inl ⟨hp, hh, rfl⟩)
  | rst hh => exact absurd hh hr
  | receiver t _ hm =>
    cases hm.transition with
    | stays hp hx hwhere => exact .inl ⟨hp, fun _ => hx, .inr hwhere⟩
    | nextPhase h1 h9 hp hlast hfirst hfresh => exact .inr (.inr (.inl ⟨h1, h9, hp, hlast, hfirst, hfresh⟩))
    | nextIndex hs hlt hp hx hcnt hsub => exact .inr (.inr (.inr (.inl ⟨hs, hlt, hp, hx, hcnt, hsub⟩)))
    | ends h0 h1 h2 h3 hp hdone => exact .inr (.inr (.inr (.inr ⟨h0, h1, h2, h3, hp, hdone⟩)))

/-- Settles O53: a step from busy to busy writes no register that the host can read. -/
theorem resultRegistersRestDuringARead : Obligations.ResultRegistersRestDuringARead := by
  unfold Obligations.ResultRegistersRestDuringARead
  intro s t hs h ht r
  exact hostValue_eq_of_resultRegs ((step_machineStep h).resultRegs_of_busy hs ht) (ht.trans hs.symm) r

/-- Settles O6: the write is the command word of `READ` (R65). -/
theorem commandWriteRunsRead : Obligations.CommandWriteRunsRead := by
  unfold Obligations.CommandWriteRunsRead
  intro s q h
  rw [step_of_readCommand (by rw [h]; rfl), popHost, h]
  rfl

/-- Settles O10: the two branches of the command. -/
theorem readAcceptedOnlyInIdle : Obligations.ReadAcceptedOnlyInIdle := by
  unfold Obligations.ReadAcceptedOnlyInIdle
  refine fun s => ⟨fun hp => ?_, fun hp => ?_⟩
  · rw [exec, execRead, if_pos hp]
    rfl
  · rw [exec, execRead, if_neg hp]

/-- Settles O11. -/
theorem idleChangesNothing : Obligations.IdleChangesNothing := by
  unfold Obligations.IdleChangesNothing
  exact fun s => rfl

end Sys2Proof.Machine

/-! ### The blocking-call view of a `READ` (R160, R165, R172) -/

namespace Sys2Proof.Machine

/-! #### Runs -/

/-- Some number of steps leads from `s` to `t`. -/
def Reaches (s t : State) : Prop := ∃ k, runSteps k s = .next t

theorem Reaches.of_step {s t : State} (h : step s = .next t) : Reaches s t := ⟨1, by rw [runSteps, h]; rfl⟩

theorem Reaches.trans {s t u : State} (hst : Reaches s t) (htu : Reaches t u) : Reaches s u := by
  obtain ⟨k, hk⟩ := hst
  obtain ⟨m, hm⟩ := htu
  exact ⟨k + m, by rw [runSteps_add k m hk, hm]⟩

/-! #### The block performs a routine (R165, R205) -/

/-- What an outcome of a routine is in the block: a value is handed to `post`, an error is the result of the ended
`READ`. -/
def Lands {α : Type} (post : α → State → Prop) : Except ReadError α → State → Prop
  | .ok a, t => post a t
  | .error e, t => t.phase = Phase.idle ∧ t.host = [] ∧ t.result = some (.error e)

/-- From `s` the block does what the routine `x` does: it reaches a state in which the outcome has landed and the
answers that `x` leaves over are still to come. -/
def Performs {α : Type} (x : Routine α) (s : State) (post : α → State → Prop) : Prop :=
  ∀ r rest, x s.pins = some (r, rest) → ∃ t, Reaches s t ∧ t.pins = rest ∧ Lands post r t

section
variable {α β : Type} {s t : State}

theorem Performs.mono {x : Routine α} {post post' : α → State → Prop} (h : Performs x s post)
    (hp : ∀ a t, post a t → post' a t) : Performs x s post' := by
  intro r rest hr
  obtain ⟨t, hst, hpins, hl⟩ := h r rest hr
  refine ⟨t, hst, hpins, ?_⟩
  cases r with
  | ok a => exact hp a t hl
  | error e => exact hl

/-- A routine that ends at once. -/
theorem performs_return (a : α) {post : α → State → Prop} (h : post a s) :
    Performs (fun ps => some (.ok a, ps)) s post := by
  intro r rest hr
  cases hr
  exact ⟨s, ⟨0, rfl⟩, rfl, h⟩

/-- R205: one routine, then another; an error ends both. -/
theorem Performs.andThen {x : Routine α} {f : α → Routine β} {mid : α → State → Prop} {post : β → State → Prop}
    (hx : Performs x s mid) (hf : ∀ a t, mid a t → Performs (f a) t post) : Performs (x.andThen f) s post := by
  intro r rest hr
  unfold Routine.andThen at hr
  rcases hxs : x s.pins with _ | ⟨_ | a, ps⟩
  · simp [hxs] at hr
  · simp only [hxs, Option.some.injEq, Prod.mk.injEq] at hr
    obtain ⟨rfl, rfl⟩ := hr
    exact hx _ _ hxs
  · simp only [hxs] at hr
    obtain ⟨t, hst, rfl, ht⟩ := hx _ _ hxs
    obtain ⟨u, htu, hpins, hu⟩ := hf a t ht r rest hr
    exact ⟨u, hst.trans htu, hpins, hu⟩

/-- Where the answers run out. -/
theorem performs_of_exhausted {x : Routine α} (post : α → State → Prop) (hx : x s.pins = none) : Performs x s post :=
  fun _ _ hr => nomatch hx.symm.trans hr

/-- Where one step does all of the routine. -/
theorem performs_of_step {x : Routine α} {post : α → State → Prop} {r : Except ReadError α}
    (hx : x s.pins = some (r, t.pins)) (hstep : step s = .next t) (hl : Lands post r t) : Performs x s post := by
  intro r' rest hr
  cases hx.symm.trans hr
  exact ⟨t, .of_step hstep, rfl, hl⟩

/-- Where some steps do the first part of the routine, or make no pin operation. -/
theorem performs_of_reaches {x y : Routine α} {post : α → State → Prop} (hst : Reaches s t)
    (hx : x s.pins = y t.pins) (hy : Performs y t post) : Performs x s post := by
  intro r rest hr
  obtain ⟨u, htu, hu⟩ := hy r rest (hx ▸ hr)
  exact ⟨u, hst.trans htu, hu⟩

/-- R206: an error that the block raises. -/
theorem lands_raise (post : α → State → Prop) (e : ReadError) (hh : t.host = []) (hok : t.ok = false) :
    Lands post (.error e) (raise e t) :=
  ⟨raise_phase e t, (raise_host e t).trans hh, raise_result e hok⟩

end

/-! #### The routines, one answer at a time (R90 to R92, R113) -/

theorem setRoutine_eq {s : State} {p : PinIn} {ps : List PinIn} (hp : s.pins = p :: ps) :
    setRoutine s.cfg.ioerrW s.pins =
      match (pinAnswer s).fault with
      | some e => some (.error (.io e), s.pins.tail)
      | none => some (.ok (), s.pins.tail) := by
  rw [pinAnswer_script hp, hp]
  cases hf : p.fault <;> simp [setRoutine, clipFault, hf]

theorem readPulse_eq {s : State} {p : PinIn} {ps : List PinIn} (hp : s.pins = p :: ps) (E : Level) (c : Nat) :
    readPulse s.cfg.ioerrW E c s.pins =
      match (pinAnswer s).fault with
      | some e => some (.error (.io e), s.pins.tail)
      | none =>
        if (pinAnswer s).level = E then some (.ok c, s.pins.tail)
        else if c = 255 then some (.error .timeout, s.pins.tail)
        else readPulse s.cfg.ioerrW E (c + 1) s.pins.tail := by
  rw [pinAnswer_script hp, hp]
  cases hf : p.fault <;> simp [readPulse, clipFault, hf]

theorem timeLevel_eq_readPulse (c : Settings) (l : Level) :
    timeLevel c l = readPulse c.ioerrW (expectedLevel c.sense l) 0 := rfl

/-! #### A set of the pin, and an invocation of the sampler (R90, R91, R110 to R116) -/

/-- R90, R91: the step that sets the pin performs the set. -/
theorem performs_setRoutine {s : State} (l : Level) (q : BitVec 4) (hstep : step s = .next (setPin l (goto q) s))
    (hh : s.host = []) (hok : s.ok = false) :
    Performs (setRoutine s.cfg.ioerrW) s fun _ t =>
      t = goto q { recordCall (if l then .pinSetHigh else .pinSetLow) (popPin s) with drv := l } := by
  cases hp : s.pins with
  | nil => exact performs_of_exhausted _ (by rw [hp]; rfl)
  | cons p ps =>
    rcases setPin_cases l (goto q) s with ⟨hf, ht⟩ | ⟨e, d, hf, -, ht⟩ <;> rw [ht] at hstep
    · exact performs_of_step (r := .ok ()) (by simp [setRoutine_eq hp, hf]) hstep rfl
    · exact performs_of_step (by simp [setRoutine_eq hp, hf]) hstep (lands_raise _ (.io e) hh hok)

/-- R115: the block, left to run, stands at the entry of a poll of `time_level(l)`; `f` is what the sequencer does when
the invocation returns. -/
structure Polls (s : State) (l : Level) (f : State → State) : Prop where
  hostSilent  : s.host = []
  noReading   : s.ok = false
  atPoll      : s.sub = .poll
  samplerWord : ∃ i, decodeWord (.seq s.seqWord) = .instr i ∧ timedLevel i = some l ∧
    ∀ u, exec i u = .next (levelStep l f u)
  keepsPins   : ∀ u, (f u).pins = u.pins

section
variable {s : State} {l : Level} {f : State → State}

theorem Polls.awaits (h : Polls s l f) : Awaits s (expectedLevel s.cfg.sense l) := by
  obtain ⟨i, hd, hl, -⟩ := h.samplerWord
  exact ⟨h.hostSilent, i, l, hd, hl, endsCount_expectedLevel _ _⟩

theorem Polls.step_eq (h : Polls s l f) : step s = .next (pulseStep (expectedLevel s.cfg.sense l) f s) := by
  obtain ⟨i, hd, -, hf⟩ := h.samplerWord
  rw [step_of_decodes (.inl (by rw [h.hostSilent]; rfl)) hd, popHost_of_silent h.hostSilent, hf, levelStep]

theorem Polls.afterMisses (h : Polls s l f) (k : Nat) (rest : List PinIn) : Polls (s.afterMisses k rest) l f :=
  ⟨h.hostSilent, h.noReading, h.atPoll, h.samplerWord, h.keepsPins⟩

/-- R110 to R113: the steps of an invocation with `c` ticks counted so far perform `read_pulse`; `k` more misses lead to
the poll that returns. -/
theorem Polls.performs_readPulse {c : Nat} (h : Polls s l f) (hc : s.cnt = BitVec.ofNat 8 c) (hle : c ≤ 255) :
    Performs (readPulse s.cfg.ioerrW (expectedLevel s.cfg.sense l) c) s fun n t => ∃ k rest,
      n = c + k ∧ t = f (recordCall .pinRead (s.afterMisses k rest)) := by
  induction hp : s.pins generalizing s c with
  | nil => exact performs_of_exhausted _ (by rw [hp]; rfl)
  | cons p ps ih =>
    have hstep := h.step_eq
    have hcnt : s.cnt = 255#8 ↔ c = 255 := by rw [hc]; bv_omega
    rcases pulseStep_poll (expectedLevel s.cfg.sense l) f h.atPoll with ⟨e, hf, ht⟩ | ⟨hf, hl, ht⟩ |
      ⟨hf, hl, h255, ht⟩ | ⟨hf, hl, h255, -⟩
    · rw [ht] at hstep
      exact performs_of_step (by simp [readPulse_eq hp, hf]) hstep (lands_raise _ (.io e) h.hostSilent h.noReading)
    · have hnow : popPin s = s.afterMisses 0 ps := by
        simp [popPin_script hp, State.afterMisses, missedPolls]
      rw [ht] at hstep
      exact performs_of_step (r := .ok c) (by simp [readPulse_eq hp, hf, hl, h.keepsPins]) hstep
        ⟨0, ps, rfl, by rw [hnow]⟩
    · rw [ht] at hstep
      exact performs_of_step (by simp [readPulse_eq hp, hf, hl, hcnt.1 h255]) hstep
        (lands_raise _ .timeout h.hostSilent h.noReading)
    · have hlt : c ≠ 255 := mt hcnt.2 h255
      have hmiss : Misses (expectedLevel s.cfg.sense l) p := by
        rw [pinAnswer_script hp] at hf hl
        exact ⟨by simpa [clipFault] using hf, hl⟩
      have hrest := ih (h.afterMisses 1 ps) (c := c + 1) (by simp [State.afterMisses, hc, BitVec.ofNat_add])
        (by omega) rfl
      refine performs_of_reaches ⟨2, h.awaits.runSteps_miss h.atPoll hp hmiss h255⟩ ?_ (hrest.mono ?_)
      · rw [readPulse_eq hp]
        simp [hf, hl, hlt, hp, State.afterMisses]
      · rintro n t ⟨k, rest, rfl, rfl⟩
        exact ⟨k + 1, rest, by omega, by rw [State.afterMisses_afterMisses]⟩

/-- R115: an invocation performs `time_level`. -/
theorem Polls.performs_timeLevel (h : Polls s l f) (hc : s.cnt = 0#8) :
    Performs (timeLevel s.cfg l) s fun n t => ∃ rest, t = f (recordCall .pinRead (s.afterMisses n rest)) := by
  rw [timeLevel_eq_readPulse]
  refine (h.performs_readPulse (c := 0) hc (by omega)).mono ?_
  rintro n t ⟨k, rest, rfl, rfl⟩
  exact ⟨rest, by rw [Nat.zero_add]⟩

end

/-! #### The positions of a `READ`, in order (R163, R172) -/

/-- The calls of one invocation that returns the count `n`, newest first (R118). -/
def invocationCalls (n : Nat) : List Primitive := .pinRead :: missedPolls n

/-- The calls of invocations that return these counts one after the other, newest first. -/
def loopCalls : List Nat → List Primitive
  | [] => []
  | n :: ns => loopCalls ns ++ invocationCalls n

/-- The calls of the start signal, newest first (R121 to R126). -/
def startCalls (c : Settings) : List Primitive :=
  [.delayUs 40#16, .pinSetHigh, .delayUs (startDelayUs c c.variant), .pinSetLow, .delayMs 1#16, .pinSetHigh]

/-- The block, left to run, stands at the position `(p, n)` of a `READ`, with the calls made so far; an invocation,
where one begins here, is at a poll. -/
structure StandsAt (c : Settings) (p : BitVec 4) (n : BitVec 7) (calls : List Primitive) (t : State) : Prop where
  constants  : t.cfg = c
  phase      : t.phase = p
  idx        : t.idx = n
  atPoll     : t.sub = .poll
  hostSilent : t.host = []
  noReading  : t.ok = false
  calls      : t.trace = calls

theorem decodeWord_seqWord_plain {s : State} {i : Instr} (hp : plainPhase s.phase = some i)
    (hx : s.indexField = 0#7) : decodeWord (.seq s.seqWord) = .instr i :=
  (decodeSeq_eq_instr_iff _ _).2 (.inr ⟨by rwa [seqPhase_seqWord], by rwa [seqIndex_seqWord]⟩)

theorem decodeWord_seqWord_sample {s : State} (hp : s.phase = Phase.sample) (hn : s.idx.toNat < 80) :
    decodeWord (.seq s.seqWord) = .instr (.sample (idxPulse s.idx) (idxHalf s.idx)) := by
  rw [← indexField_sample hp, ← seqIndex_seqWord] at hn ⊢
  exact (decodeSeq_eq_instr_iff _ _).2 (.inl ⟨by rwa [seqPhase_seqWord], hn, rfl⟩)

section
variable {c : Settings} {p q : BitVec 4} {n : BitVec 7} {i : Instr} {calls : List Primitive} {t : State}

/-! What the shared operations do to the position. -/

theorem StandsAt.after_goto (h : StandsAt c p n calls t) (q : BitVec 4) : StandsAt c q n calls (goto q t) :=
  ⟨h.constants, rfl, h.idx, h.atPoll, h.hostSilent, h.noReading, h.calls⟩

theorem StandsAt.after_enterInvocation (h : StandsAt c p n calls t) (q : BitVec 4) :
    StandsAt c q n calls (enterInvocation q t) :=
  ⟨h.constants, rfl, h.idx, rfl, h.hostSilent, h.noReading, h.calls⟩

theorem StandsAt.after_enterSampling (h : StandsAt c p n calls t) :
    StandsAt c Phase.sample 0#7 calls (enterSampling t) :=
  ⟨h.constants, rfl, rfl, rfl, h.hostSilent, h.noReading, h.calls⟩

theorem StandsAt.after_recordCall (h : StandsAt c p n calls t) (call : Primitive) :
    StandsAt c p n (call :: calls) (recordCall call t) :=
  ⟨h.constants, h.phase, h.idx, h.atPoll, h.hostSilent, h.noReading, congrArg (call :: ·) h.calls⟩

theorem StandsAt.after_drive (h : StandsAt c p n calls t) (d : Bool) :
    StandsAt c p n calls { popPin t with drv := d } :=
  ⟨h.constants, h.phase, h.idx, h.atPoll, h.hostSilent, h.noReading, h.calls⟩

theorem StandsAt.after_misses (h : StandsAt c p n calls t) (k : Nat) (rest : List PinIn) :
    StandsAt c p n (missedPolls k ++ calls) (t.afterMisses k rest) :=
  ⟨h.constants, h.phase, h.idx, h.atPoll, h.hostSilent, h.noReading, congrArg (missedPolls k ++ ·) h.calls⟩

/-- R164: the acceptance leads to `H1_SET`, with no calls made. -/
theorem standsAt_acceptRead (hh : t.host = []) : StandsAt t.cfg Phase.h1Set 0#7 [] (acceptRead t) :=
  ⟨rfl, rfl, rfl, rfl, hh, rfl, rfl⟩

/-! The step at a position. -/

theorem StandsAt.decodes (h : StandsAt c p 0#7 calls t) (hp : plainPhase p = some i) :
    decodeWord (.seq t.seqWord) = .instr i :=
  decodeWord_seqWord_plain (by rwa [h.phase]) ((indexField_eq_zero_iff t).2 (.inl h.idx))

theorem StandsAt.step_eq (h : StandsAt c p n calls t) (hd : decodeWord (.seq t.seqWord) = .instr i) :
    step t = exec i t := by
  rw [step_of_decodes (.inl (by rw [h.hostSilent]; rfl)) hd, popHost_of_silent h.hostSilent]

/-- R120: the step of a phase that sets the pin performs the set. -/
theorem StandsAt.performs_set (h : StandsAt c p 0#7 calls t) (l : Level) (hp : plainPhase p = some i)
    (hi : ∀ u, exec i u = .next (setPin l (goto q) u)) :
    Performs (setRoutine c.ioerrW) t fun _ u =>
      StandsAt c q 0#7 ((if l then .pinSetHigh else .pinSetLow) :: calls) u := by
  have hstep := (h.step_eq (h.decodes hp)).trans (hi t)
  rw [← h.constants]
  refine (performs_setRoutine l q hstep h.hostSilent h.noReading).mono ?_
  rintro _ u rfl
  rw [h.constants]
  exact ((h.after_drive l).after_recordCall _).after_goto q

/-- R93, R94: a hold is a step that uses no answer. -/
theorem StandsAt.performs_after_hold {α : Type} {x : Routine α} {post : α → State → Prop} {u : State}
    (h : StandsAt c p 0#7 calls t) (hp : plainPhase p = some i) (hi : exec i t = .next u) (hpins : u.pins = t.pins)
    (hu : Performs x u post) : Performs x t post :=
  performs_of_reaches (.of_step ((h.step_eq (h.decodes hp)).trans hi)) (by rw [hpins]) hu

/-- R120 to R126: the start signal performs its three sets, with a hold after each. -/
theorem StandsAt.performs_start {α : Type} {x : Routine α} {post : α → State → Prop}
    (h : StandsAt c Phase.h1Set 0#7 [] t)
    (hx : ∀ u, StandsAt c Phase.ackLow 0#7 (startCalls c) u → u.cnt = 0#8 → Performs x u post) :
    Performs ((setRoutine c.ioerrW).andThen fun _ => (setRoutine c.ioerrW).andThen fun _ =>
      (setRoutine c.ioerrW).andThen fun _ => x) t post := by
  refine (h.performs_set Level.high rfl fun _ => rfl).andThen fun _ t h1 => ?_
  refine h1.performs_after_hold rfl rfl rfl ?_
  have h2 := (h1.after_recordCall (.delayMs 1#16)).after_goto Phase.h2Set
  refine (h2.performs_set Level.low rfl fun _ => rfl).andThen fun _ t h3 => ?_
  refine h3.performs_after_hold rfl rfl rfl ?_
  have h4 := (h3.after_recordCall (.delayUs t.sdly)).after_goto Phase.h3Set
  have hdelay : startDelayUs c c.variant = t.sdly := by rw [State.sdly, h3.constants]
  refine (h4.performs_set Level.high rfl fun _ => rfl).andThen fun _ t h5 => ?_
  refine h5.performs_after_hold rfl rfl rfl (hx _ ?_ rfl)
  rw [startCalls, hdelay]
  exact (h5.after_recordCall (.delayUs 40#16)).after_enterInvocation Phase.ackLow

/-- R115: an invocation at the position performs `time_level`, and then the sequencer does `f`. -/
theorem StandsAt.performs_timeLevel {f : State → State} {l : Level} (h : StandsAt c p n calls t) (hc : t.cnt = 0#8)
    (hd : decodeWord (.seq t.seqWord) = .instr i) (hl : timedLevel i = some l)
    (hf : ∀ u, exec i u = .next (levelStep l f u)) (hpins : ∀ u, (f u).pins = u.pins) :
    Performs (timeLevel c l) t fun k v => ∃ u,
      StandsAt c p n (invocationCalls k ++ calls) u ∧ u.cnt = BitVec.ofNat 8 k ∧ u.pulse = t.pulse ∧ v = f u := by
  have hpolls : Polls t l f := ⟨h.hostSilent, h.noReading, h.atPoll, ⟨i, hd, hl, hf⟩, hpins⟩
  rw [← h.constants]
  refine (hpolls.performs_timeLevel hc).mono ?_
  rintro k v ⟨rest, rfl⟩
  rw [h.constants]
  exact ⟨_, (h.after_misses k rest).after_recordCall .pinRead, by simp [State.afterMisses, hc], rfl, rfl⟩

/-- R127: `ACK_LOW`. -/
theorem StandsAt.performs_ackLow (h : StandsAt c Phase.ackLow 0#7 calls t) (hc : t.cnt = 0#8) :
    Performs (timeLevel c Level.low) t fun k v =>
      StandsAt c Phase.ackHigh 0#7 (invocationCalls k ++ calls) v ∧ v.cnt = 0#8 := by
  refine (h.performs_timeLevel hc (h.decodes rfl) rfl (fun _ => rfl) fun _ => rfl).mono ?_
  rintro k v ⟨u, hu, -, -, rfl⟩
  exact ⟨hu.after_enterInvocation _, rfl⟩

/-- R128: `ACK_HIGH`. -/
theorem StandsAt.performs_ackHigh (h : StandsAt c Phase.ackHigh 0#7 calls t) (hc : t.cnt = 0#8) :
    Performs (timeLevel c Level.high) t fun k v =>
      StandsAt c Phase.sample 0#7 (invocationCalls k ++ calls) v ∧ v.cnt = 0#8 := by
  refine (h.performs_timeLevel hc (h.decodes rfl) rfl (fun _ => rfl) fun _ => rfl).mono ?_
  rintro k v ⟨u, hu, -, -, rfl⟩
  exact ⟨hu.after_enterSampling, rfl⟩

end

/-! #### The sampling loop (R135, R137) -/

@[simp] theorem advanceSample_pulse (n : BitVec 7) (s : State) : (advanceSample n s).pulse = s.pulse := by
  rcases advanceSample_cases n s with ⟨-, h⟩ | ⟨-, h⟩ <;> rw [h]

@[simp] theorem advanceSample_pins (n : BitVec 7) (s : State) : (advanceSample n s).pins = s.pins := by
  rcases advanceSample_cases n s with ⟨-, h⟩ | ⟨-, h⟩ <;> rw [h]

@[simp] theorem storeSample_pulse (i : BitVec 6) (l : Level) (s : State) :
    (storeSample i l s).pulse = storeHalf s.pulse i l s.cnt := advanceSample_pulse _ _

@[simp] theorem storeSample_pins (i : BitVec 6) (l : Level) (s : State) : (storeSample i l s).pins = s.pins :=
  advanceSample_pins _ _

/-- R135, R137: the halves from `n` on hold the counts, the halves below are those of `ps`. -/
def FilledFrom (n : Nat) (counts : List Nat) (ps qs : Vector Pulse 40) : Prop :=
  ∀ m : Fin 80, halfAt qs m = if m.val < n then halfAt ps m else BitVec.ofNat 8 (counts.getD (m.val - n) 0)

theorem halfAt_pulsesOfCounts (cs : List Nat) (m : Fin 80) :
    halfAt (pulsesOfCounts cs) m = BitVec.ofNat 8 (cs.getD m.val 0) := by
  by_cases hm : m.val % 2 = 0
  · have he : 2 * (m.val / 2) = m.val := by omega
    simp [halfAt, pulsesOfCounts, hm, he]
  · have he : 2 * (m.val / 2) + 1 = m.val := by omega
    simp [halfAt, pulsesOfCounts, hm, he]

theorem FilledFrom.eq_pulsesOfCounts {cs : List Nat} {ps qs : Vector Pulse 40} (h : FilledFrom 0 cs ps qs) :
    qs = pulsesOfCounts cs := by
  refine pulse_ext_halfAt fun m => ?_
  rw [h m, halfAt_pulsesOfCounts, if_neg (Nat.not_lt_zero _), Nat.sub_zero]

theorem filledFrom_80 (ps : Vector Pulse 40) : FilledFrom 80 [] ps ps := fun m => (if_pos m.isLt).symm

/-- R137: a count is stored, and the counts after it. -/
theorem FilledFrom.cons {n k : Nat} {cs : List Nat} {ps qs : Vector Pulse 40} {i : BitVec 6} {l : Level}
    (hi : i.toNat < 40) (hn : 2 * i.toNat + l.toNat = n)
    (h : FilledFrom (n + 1) cs (storeHalf ps i l (BitVec.ofNat 8 k)) qs) : FilledFrom n (k :: cs) ps qs := by
  intro m
  rw [h m, halfAt_storeHalf _ _ _ hi, hn]
  rcases Nat.lt_trichotomy m.val n with hm | hm | hm
  · have h1 : m.val < n + 1 := by omega
    have h2 : m.val ≠ n := by omega
    simp [hm, h1, h2]
  · simp [hm]
  · have h1 : ¬ m.val < n + 1 := by omega
    have h2 : ¬ m.val < n := by omega
    have h3 : m.val - n = m.val - (n + 1) + 1 := by omega
    simp [h1, h2, h3]

/-- The block stands before the sampling invocation `n`, or in `DECODE` after the last (R137, R163). -/
def StandsInLoop (c : Settings) (n : Nat) (calls : List Primitive) (t : State) : Prop :=
  (n < 80 → StandsAt c Phase.sample (BitVec.ofNat 7 n) calls t ∧ t.cnt = 0#8) ∧
  (n = 80 → StandsAt c Phase.decode 79#7 calls t)

section
variable {c : Settings} {n : Nat} {calls : List Primitive} {t : State}

/-- R137: the store of the count of invocation `n` goes on to the next. -/
theorem StandsAt.after_storeSample {i : BitVec 6} {l : Level} (h : StandsAt c Phase.sample (BitVec.ofNat 7 n) calls t)
    (hn : 2 * i.toNat + l.toNat = n) (hlt : n < 80) : StandsInLoop c (n + 1) calls (storeSample i l t) := by
  by_cases hlast : n = 79
  · subst hlast
    refine ⟨fun hlt => absurd hlt (by omega), fun _ => ?_⟩
    rw [storeSample_last t hn]
    exact ⟨h.constants, rfl, h.idx, h.atPoll, h.hostSilent, h.noReading, h.calls⟩
  · refine ⟨fun _ => ?_, fun he => absurd he (by omega)⟩
    rw [storeSample_more t (hn ▸ hlast), idxOf_succ, hn]
    exact ⟨⟨h.constants, rfl, rfl, rfl, h.hostSilent, h.noReading, h.calls⟩, rfl⟩

/-- R137: invocation `n` times the level of its half. -/
theorem StandsInLoop.performs_invocation (h : StandsInLoop c n calls t) (hn : n < 80) :
    Performs (timeLevel c (n % 2 == 1)) t fun k v => ∃ i : BitVec 6, ∃ l : Level,
      i.toNat < 40 ∧ 2 * i.toNat + l.toNat = n ∧ StandsInLoop c (n + 1) (invocationCalls k ++ calls) v ∧
      v.pulse = storeHalf t.pulse i l (BitVec.ofNat 8 k) := by
  obtain ⟨hs, hc⟩ := h.1 hn
  have hidx : t.idx.toNat = n := by rw [hs.idx, BitVec.toNat_ofNat]; omega
  have hhalf := idxPulse_idxHalf_toNat t.idx
  have hi := idxPulse_toNat_lt (hidx ▸ hn)
  have hlevel : (n % 2 == 1) = idxHalf t.idx := by
    cases hl : idxHalf t.idx <;> simp [hl] at hhalf ⊢ <;> omega
  rw [hlevel]
  refine (hs.performs_timeLevel hc (decodeWord_seqWord_sample hs.phase (hidx ▸ hn)) rfl
    (fun _ => by rw [exec, execSample, if_pos hi]) (storeSample_pins _ _)).mono ?_
  rintro k v ⟨u, hu, hcnt, hpulse, rfl⟩
  refine ⟨_, _, hi, hhalf.trans hidx, hu.after_storeSample (hhalf.trans hidx) hn, ?_⟩
  rw [storeSample_pulse, hpulse, hcnt]

/-- R135: the last `k` of the 80 invocations, by induction on `k`. -/
theorem StandsInLoop.performs_samplingLoop {k : Nat} (h : StandsInLoop c n calls t) (hk : n + k = 80) :
    Performs (samplingLoop c k n) t fun cs v =>
      StandsAt c Phase.decode 79#7 (loopCalls cs ++ calls) v ∧ FilledFrom n cs t.pulse v.pulse := by
  induction k generalizing n calls t with
  | zero =>
    obtain rfl : n = 80 := hk
    exact performs_return [] ⟨h.2 rfl, filledFrom_80 _⟩
  | succ k ih =>
    rw [samplingLoop]
    refine (h.performs_invocation (by omega)).andThen fun m u ⟨i, l, hi, hn, hu, hpulse⟩ => ?_
    refine (ih hu (by omega)).andThen fun ms v ⟨hv, hfill⟩ => performs_return _ ⟨?_, ?_⟩
    · rwa [loopCalls, List.append_assoc]
    · exact .cons hi hn (hpulse ▸ hfill)

end

/-! #### The whole `READ` (R120, R160, R165) -/

/-- R120, R135: from the acceptance to `DECODE` the block performs the handshake and the sampling loop, with the calls
of the start signal and of each invocation. -/
theorem StandsAt.performs_measure {c : Settings} {t : State} (h : StandsAt c Phase.h1Set 0#7 [] t) :
    Performs (measure c) t fun m v =>
      StandsAt c Phase.decode 79#7 (loopCalls (m.ackLow :: m.ackHigh :: m.samples) ++ startCalls c) v ∧
      v.pulse = pulsesOfCounts m.samples := by
  refine h.performs_start fun u hu hc => ?_
  refine (hu.performs_ackLow hc).andThen fun a u ⟨hu, hc⟩ => ?_
  refine (hu.performs_ackHigh hc).andThen fun b u ⟨hu, hc⟩ => ?_
  have hloop : StandsInLoop c 0 _ u := ⟨fun _ => ⟨hu, hc⟩, nofun⟩
  refine (hloop.performs_samplingLoop rfl).andThen fun cs v ⟨hv, hfill⟩ => ?_
  refine performs_return (Counts.mk a b cs) ⟨?_, hfill.eq_pulsesOfCounts⟩
  simpa [loopCalls] using hv

/-- R152, R165: `DECODE` ends the `READ` with the answer of the pure decoder. -/
theorem StandsAt.step_decode {c : Settings} {calls : List Primitive} {t : State}
    (h : StandsAt c Phase.decode 79#7 calls t) :
    ∃ v, step t = .next v ∧ v.phase = Phase.idle ∧ v.host = [] ∧ v.pins = t.pins ∧
      v.result = some (decodeFrame t.pulse c.variant) := by
  have hd : decodeWord (.seq t.seqWord) = .instr .decode :=
    decodeWord_seqWord_plain (by rw [h.phase]; rfl)
      ((indexField_eq_zero_iff t).2 (.inr (.inr ⟨h.phase, h.idx⟩)))
  refine ⟨_, h.step_eq hd, ?_, ?_, judgeFrame_pins _, ?_⟩
  · exact judgeFrame_proj rfl fun _ _ => rfl
  · exact (judgeFrame_proj rfl fun _ _ => rfl).trans h.hostSilent
  · rw [← h.constants]
    exact judgeFrame_result h.noReading rfl

/-- R160: the step in which the idle block accepts the host's `READ`. -/
theorem step_accepts {s : State} (hp : s.phase = Phase.idle) (hh : s.host = [.write 0x0#4 0x01#8]) :
    ∃ u, step s = .next u ∧ StandsAt s.cfg Phase.h1Set 0#7 [] u ∧ u.pins = s.pins := by
  refine ⟨acceptRead (popHost s), ?_, standsAt_acceptRead (t := popHost s) (by simp [hh]), rfl⟩
  rw [step_of_readCommand (by rw [hh]; rfl), if_pos hp]

/-- Settles O58: from the acceptance on the block performs `measure`; an error is then its result, and after the counts
`DECODE` publishes the answer of the pure decoder. -/
theorem readRefinesTheBlockingCall : Obligations.ReadRefinesTheBlockingCall := by
  unfold Obligations.ReadRefinesTheBlockingCall
  intro s res rest hp hh hr
  obtain ⟨u, hstep, hu, hpins⟩ := step_accepts hp hh
  have hperf := hu.performs_measure
  rw [Performs, hpins] at hperf
  rcases hm : measure s.cfg s.pins with _ | ⟨e | m, left⟩
  · simp [readRoutine, hm] at hr
  · simp only [readRoutine, hm, Option.some.injEq, Prod.mk.injEq] at hr
    obtain ⟨rfl, rfl⟩ := hr
    obtain ⟨t, hut, hrest, hidle, hhost, hres⟩ := hperf _ _ hm
    obtain ⟨k, hk⟩ := (Reaches.of_step hstep).trans hut
    exact ⟨k, t, hk, hidle, hhost, hres, hrest⟩
  · simp only [readRoutine, hm, Option.some.injEq, Prod.mk.injEq] at hr
    obtain ⟨rfl, rfl⟩ := hr
    obtain ⟨t, hut, hrest, ht, hpulse⟩ := hperf _ _ hm
    obtain ⟨v, hdec, hidle, hhost, hvpins, hres⟩ := ht.step_decode
    obtain ⟨k, hk⟩ := ((Reaches.of_step hstep).trans hut).trans (.of_step hdec)
    exact ⟨k, v, hk, hidle, hhost, by rw [hres, hpulse], hvpins.trans hrest⟩

end Sys2Proof.Machine

/-! ### The Reading and the error of a `READ` (R180 to R189) -/

namespace Sys2Proof.Machine

/-! #### The Fahrenheit value (R181) -/

/-- R181: the hundredths are the Celsius value times 9/5 plus 32. -/
theorem fahrenheitHundredths_div (c : Int) :
    (fahrenheitHundredths c : Rat) / 100 = (c : Rat) / 10 * 9 / 5 + 32 := by
  rw [fahrenheitHundredths]
  push_cast
  ring

/-- R181: a multiple of 2.5 degrees Celsius is a whole number of halves of a degree Fahrenheit. -/
theorem fahrenheit_halves {c : Int} (h : c % 25 = 0) :
    ((fahrenheitHundredths c / 50 : Int) : Rat) / 2 = (fahrenheitHundredths c : Rat) / 100 := by
  have hdvd : (50 : Int) ∣ fahrenheitHundredths c := by
    rw [fahrenheitHundredths]
    omega
  rw [Int.cast_div hdvd (by norm_num)]
  push_cast
  ring

/-- R181: such a Celsius value `2.5 k` is `9 k + 64` halves of a degree Fahrenheit, never 0 since 9 does not divide 64. -/
theorem fahrenheit_halves_ne_zero {c : Int} (h : c % 25 = 0) : fahrenheitHundredths c / 50 ≠ 0 := by
  rw [fahrenheitHundredths]
  omega

/-- R102, R103: the Celsius value is at most 3276.7 degrees either way, so the halves fit the 24 bits of a binary32. -/
theorem fahrenheit_halves_lt (r : Reading) : (fahrenheitHundredths r.celsiusTenths / 50).natAbs < 2 ^ 24 := by
  obtain ⟨hlow, hhigh⟩ := celsiusTenths_bounds r
  rw [fahrenheitHundredths]
  omega

/-! #### Where a Reading comes from and where it goes (R185) -/

/-- The two states have the same Reading, or none. -/
def SameReading (t s : State) : Prop := t.ok = s.ok ∧ t.data = s.data ∧ t.rvar = s.rvar

/-- R149, R151: in `DECODE`, a frame with a matching checksum is in `BYTE` and its first four bytes in `DATA`. -/
def DecodesVerifiedFrame (s t : State) : Prop :=
  s.phase = Phase.decode ∧
    (t.byte[0].toNat + t.byte[1].toNat + t.byte[2].toNat + t.byte[3].toNat) % 256 = t.byte[4].toNat ∧
    t.data = #v[t.byte[0], t.byte[1], t.byte[2], t.byte[3]] ∧ t.rvar = s.cfg.variant

/-- R164, R230: the next `READ` is accepted, or `rst` is asserted. -/
def AcceptsOrResets (s t : State) : Prop :=
  (s.host.head? = some (.write 0x0#4 0x01#8) ∧ t.phase = Phase.h1Set) ∨ s.host.head? = some .rst

/-- R151, R206: of the receiver's moves one publishes a Reading, and all others, the errors among them, leave it. -/
theorem ReceiverStep.reading_cases {s t : State} (h : ReceiverStep s t) :
    SameReading t s ∨ DecodesVerifiedFrame s t := by
  cases h with
  | idle | h1Hold | h2Hold | h3Hold | h1Set | h2Set | h3Set | wait | pollMisses | ackLow | ackHigh | sampleLast
  | sampleMore | setFails | pollFails | pollExpires | frameRejected => exact .inl ⟨rfl, rfl, rfl⟩
  | frameAccepted hp hc => exact .inr ⟨hp, (expectedChecksum_eq_actualChecksum_iff _).1 hc, rfl, rfl⟩

/-- R161, R164, R230: of the host's moves the acceptance and `rst` clear the Reading, the others leave it. -/
theorem MachineStep.reading_cases {s t : State} (h : MachineStep s t) :
    SameReading t s ∨ DecodesVerifiedFrame s t ∨ (t.ok = false ∧ AcceptsOrResets s t) := by
  cases h with
  | inertWrite | refuse | hostRead => exact .inl ⟨rfl, rfl, rfl⟩
  | accept hh => exact .inr (.inr ⟨rfl, .inl ⟨hh, rfl⟩⟩)
  | rst hh => exact .inr (.inr ⟨rfl, .inr hh⟩)
  | receiver t _ hm => exact hm.reading_cases.imp_right .inl

/-! #### The error predicates (R186 to R188) -/

theorem State.isIo_iff (s : State) : s.isIo = true ↔ s.ecode = 1#2 := beq_iff_eq

theorem State.isTimeout_iff (s : State) : s.isTimeout = true ↔ s.ecode = 2#2 := beq_iff_eq

theorem State.isChecksum_iff (s : State) : s.isChecksum = true ↔ s.ecode = 3#2 := beq_iff_eq

/-- R24: `ECODE` has two bits, and each of its values that is not 0 is one of the three errors. -/
theorem ecode_cases {e : BitVec 2} (h : e ≠ 0#2) : e = 1#2 ∨ e = 2#2 ∨ e = 3#2 := by
  revert e
  decide

/-! #### The statements -/

/-- Settles O40: the binary32 value is that of a whole number of halves, not 0 and of at most 24 bits. -/
theorem fahrenheitIsExact : Obligations.FahrenheitIsExact := by
  unfold Obligations.FahrenheitIsExact
  refine fun r => ⟨fahrenheitHundredths_div r.celsiusTenths, fun h => ?_⟩
  rw [f32_fahrenheit_of_halves h, ← fahrenheitHundredths_div, ← fahrenheit_halves h]
  exact f32OfHalves_rendersExactly _ (fahrenheit_halves_ne_zero h) (fahrenheit_halves_lt r)

/-- Settles O52: by what a step does to the Reading; `DECODE` runs while `BUSY` is 1, when no Reading stands. -/
theorem readingExistsOnlyAfterAVerifiedFrame : Obligations.ReadingExistsOnlyAfterAVerifiedFrame := by
  unfold Obligations.ReadingExistsOnlyAfterAVerifiedFrame
  intro s t hi h
  rcases (step_machineStep h).reading_cases with ⟨hok, hsame⟩ | ⟨hp, hframe⟩ | ⟨hok, hwhy⟩
  · exact ⟨fun hs ht => by simp [hok, hs] at ht, fun hs => .inl ⟨hok.trans hs, hsame⟩⟩
  · have hnone : s.ok = false := hi.ok_of_busy (busy_of_phase hp (by decide))
    exact ⟨fun _ _ => ⟨hp, hframe⟩, fun hs => by simp [hnone] at hs⟩
  · exact ⟨fun _ ht => by simp [hok] at ht, fun _ => .inr ⟨hok, hwhy⟩⟩

/-- Settles O36: each predicate is the test for its code, and the codes differ. -/
theorem errorPredicatesAreExclusive : Obligations.ErrorPredicatesAreExclusive := by
  unfold Obligations.ErrorPredicatesAreExclusive
  intro s
  refine ⟨s.isIo_iff, s.isTimeout_iff, s.isChecksum_iff, ?_⟩
  simp only [Bool.eq_false_iff, ne_eq, s.isIo_iff, s.isTimeout_iff, s.isChecksum_iff]
  refine ⟨fun h => by simp [h], fun h => ?_⟩
  rcases ecode_cases h with h | h | h
  · exact .inl (by simp [h])
  · exact .inr (.inl (by simp [h]))
  · exact .inr (.inr (by simp [h]))

end Sys2Proof.Machine

/-! ### No position stops the block (R204, R222) -/

namespace Sys2Proof.Machine

/-- R13, R14, R70: a position the sequencer enters has an operation; in `DECODE` and `IDLE` by log 7. -/
theorem PositionInv.decodes {s : State} (hi : PositionInv s) : ∃ i, decodeWord (.seq s.seqWord) = .instr i := by
  by_contra hnone
  rcases (reservedPosition_iff s).1 hnone with hp | hx | ⟨hlo, hhi, hx⟩ | ⟨hp, -, hx⟩
  · have := hi.phaseLegal
    omega
  · have := hi.indexLegal
    omega
  · exact hx (hi.indexStart hlo hhi)
  · exact hx (hi.indexEnd hp)

/-- Settles O48: an access of the host runs in every position, and else the position's operation runs. -/
theorem nothingStopsTheBlock : Obligations.NothingStopsTheBlock := by
  unfold Obligations.NothingStopsTheBlock
  intro s hi
  by_cases hq : HostQuiet s
  · obtain ⟨i, hd⟩ := hi.decodes
    rw [step_of_decodes hq hd]
    exact exec_of_wellFormed (encode_of_decodeWord hd).1 (popHost s)
  · exact step_of_not_hostQuiet hq

end Sys2Proof.Machine

/-! ### `rst`, and the whole `READ` (R230, R231, R250, R252) -/

namespace Sys2Proof.Machine

/-- Settles O43: in any state `rst` is a step of its own, and what it writes is what R30 gives. -/
theorem rstAbandonsTheRead : Obligations.RstAbandonsTheRead := by
  unfold Obligations.RstAbandonsTheRead
  intro s q h
  refine ⟨assertReset (popHost s), step_of_rst (by rw [h]; rfl), ?_⟩
  rw [assertReset, popHost, h]
  rfl

/-! #### The counts of a completed `READ` (R130, R135, R250) -/

/-- R205: a chain of two routines returns a value where both do. -/
theorem Routine.andThen_eq_ok {α β : Type} {x : Routine α} {f : α → Routine β} {b : β} {ps rest : List PinIn}
    (h : x.andThen f ps = some (.ok b, rest)) : ∃ a qs, x ps = some (.ok a, qs) ∧ f a qs = some (.ok b, rest) := by
  unfold Routine.andThen at h
  rcases hx : x ps with _ | ⟨_ | a, qs⟩
  · simp [hx] at h
  · simp [hx] at h
  · exact ⟨a, qs, rfl, by simpa [hx] using h⟩

/-- R135: each invocation of the sampling loop gives one count. -/
theorem length_of_samplingLoop {c : Settings} {k n : Nat} {cs : List Nat} {ps rest : List PinIn}
    (h : samplingLoop c k n ps = some (.ok cs, rest)) : cs.length = k := by
  induction k generalizing n cs ps rest with
  | zero => cases h; rfl
  | succ k ih =>
    obtain ⟨m, qs, -, h⟩ := Routine.andThen_eq_ok h
    obtain ⟨ms, qs', hms, h⟩ := Routine.andThen_eq_ok h
    cases h
    rw [List.length_cons, ih hms]

/-- R135: a `READ` that reaches `DECODE` has 80 sampling counts. -/
theorem length_samples_of_measure {c : Settings} {m : Counts} {ps rest : List PinIn}
    (h : measure c ps = some (.ok m, rest)) : m.samples.length = 80 := by
  obtain ⟨_, _, -, h⟩ := Routine.andThen_eq_ok h
  obtain ⟨_, _, -, h⟩ := Routine.andThen_eq_ok h
  obtain ⟨_, _, -, h⟩ := Routine.andThen_eq_ok h
  obtain ⟨a, _, -, h⟩ := Routine.andThen_eq_ok h
  obtain ⟨b, _, -, h⟩ := Routine.andThen_eq_ok h
  obtain ⟨cs, _, hloop, h⟩ := Routine.andThen_eq_ok h
  cases h
  exact length_of_samplingLoop hloop

/-! R118, R130: what the invocations that return the counts `ns` add to a record of calls. -/

theorem traceUs_loopCalls_append (ns : List Nat) (cs : List Primitive) :
    traceUs (loopCalls ns ++ cs) = traceUs cs + ns.sum := by
  induction ns generalizing cs with
  | nil => rfl
  | cons n ns ih =>
    have hinvocation : traceUs (invocationCalls n ++ cs) = traceUs cs + n := by
      rw [invocationCalls, List.cons_append, traceUs, traceUs_missedPolls_append, Primitive.us, Nat.zero_add]
    rw [loopCalls, List.append_assoc, ih, hinvocation, List.sum_cons, Nat.add_assoc]

theorem pollCount_append (cs ds : List Primitive) : pollCount (cs ++ ds) = pollCount cs + pollCount ds :=
  List.countP_append

theorem setCount_append (cs ds : List Primitive) : setCount (cs ++ ds) = setCount cs + setCount ds :=
  List.countP_append

theorem pollCount_invocationCalls (n : Nat) : pollCount (invocationCalls n) = n + 1 := by
  simp [pollCount, invocationCalls, missedPolls, List.countP_flatten]

theorem setCount_invocationCalls (n : Nat) : setCount (invocationCalls n) = 0 := by
  simp [setCount, invocationCalls, missedPolls, List.countP_flatten]

theorem length_invocationCalls (n : Nat) : (invocationCalls n).length = 2 * n + 1 := by
  simp [invocationCalls, missedPolls, Nat.mul_comm]

theorem pollCount_loopCalls (ns : List Nat) : pollCount (loopCalls ns) = ns.length + ns.sum := by
  induction ns with
  | nil => rfl
  | cons n ns ih =>
    rw [loopCalls, pollCount_append, ih, pollCount_invocationCalls, List.length_cons, List.sum_cons]
    omega

theorem setCount_loopCalls (ns : List Nat) : setCount (loopCalls ns) = 0 := by
  induction ns with
  | nil => rfl
  | cons n ns ih => rw [loopCalls, setCount_append, ih, setCount_invocationCalls]

theorem length_loopCalls (ns : List Nat) : (loopCalls ns).length = ns.length + 2 * ns.sum := by
  induction ns with
  | nil => rfl
  | cons n ns ih =>
    rw [loopCalls, List.length_append, ih, length_invocationCalls, List.length_cons, List.sum_cons]
    omega

/-- R121 to R126: the three holds of the start signal. -/
theorem traceUs_startCalls (c : Settings) :
    traceUs (startCalls c) = 1000 + (startDelayUs c c.variant).toNat + 40 := by
  simp only [startCalls, traceUs, Primitive.us, usPerMs, BitVec.toNat_ofNat]
  omega

theorem pollCount_startCalls (c : Settings) : pollCount (startCalls c) = 0 := rfl

theorem setCount_startCalls (c : Settings) : setCount (startCalls c) = 3 := rfl

theorem length_startCalls (c : Settings) : (startCalls c).length = 6 := rfl

/-- Settles O59: the block performs `measure`, and its record of calls at `DECODE` is that of the start signal and of 82
invocations. -/
theorem completedReadTakesItsCounts : Obligations.CompletedReadTakesItsCounts := by
  unfold Obligations.CompletedReadTakesItsCounts
  intro s m rest hp hh hm
  obtain ⟨u, hstep, hu, hpins⟩ := step_accepts hp hh
  obtain ⟨t, hut, hrest, ht, hpulse⟩ := hu.performs_measure _ _ (by rw [hpins]; exact hm)
  obtain ⟨k, hk⟩ := (Reaches.of_step hstep).trans hut
  have hlen := length_samples_of_measure hm
  have hpolls : pollCount t.trace = 82 + m.ackLow + m.ackHigh + m.samples.sum := by
    rw [ht.calls, pollCount_append, pollCount_loopCalls, pollCount_startCalls]
    simp only [List.length_cons, List.sum_cons, hlen]
    omega
  refine ⟨k, t, hk, ht.phase, hrest, hpulse, ?_, ?_, hpolls, ?_⟩
  · rw [State.time, ht.calls, traceUs_loopCalls_append, traceUs_startCalls, State.sdly]
    simp only [List.sum_cons]
    omega
  · rw [ht.calls, setCount_append, setCount_loopCalls, setCount_startCalls]
  · rw [hpolls, ht.calls, List.length_append, length_loopCalls, length_startCalls]
    simp only [List.length_cons, List.sum_cons, hlen]
    omega

/-! #### Every `READ` ends (R252) -/

/-- R111, R112, R118: the steps that the running invocation takes at most: a poll, and before it a poll and a tick for
each miss that the budget leaves. -/
def invocationStepsLeft (s : State) : Nat := 2 * (255 - s.cnt.toNat) + if s.sub = .poll then 1 else 0

/-- R172: the invocations to come after the running one, of two for the acknowledgements and 80 for the frame. -/
def invocationsToCome (s : State) : Nat :=
  if s.phase = Phase.ackLow then 81 else if s.phase = Phase.ackHigh then 80 else 79 - s.idx.toNat

/-- R252: the steps before `DECODE` at most; an invocation takes at most 511 and the start signal six. -/
def stepsBeforeDecode (s : State) : Nat :=
  if samplerPhase s.phase = true then 511 * invocationsToCome s + invocationStepsLeft s
  else if s.phase.toNat ≤ 6 then 82 * 511 + (7 - s.phase.toNat)
  else 0

/-- R252: 41908 steps and the final one. -/
theorem stepsBeforeDecode_le {s : State} (hb : s.busy = true) : stepsBeforeDecode s ≤ 41908 := by
  have hphase : s.phase.toNat ≠ 0 := fun h => not_busy_of_idle (BitVec.eq_of_toNat_eq h) hb
  have hinvocation : invocationStepsLeft s ≤ 511 := by
    unfold invocationStepsLeft
    split <;> omega
  have hcome : invocationsToCome s ≤ 81 := by
    unfold invocationsToCome
    split_ifs <;> omega
  unfold stepsBeforeDecode
  split_ifs <;> omega

/-- R116: while the invocation runs, its own steps alone grow fewer. -/
theorem stepsBeforeDecode_lt_of_invocation {s t : State} (hs : samplerPhase s.phase = true)
    (hp : t.phase = s.phase) (hx : t.idx = s.idx) (hlt : invocationStepsLeft t < invocationStepsLeft s) :
    stepsBeforeDecode t < stepsBeforeDecode s := by
  simp only [stepsBeforeDecode, invocationsToCome, hp, hx, if_pos hs]
  omega

/-- The receiver leaves the host's accesses to come as they are. -/
theorem ReceiverStep.host {s t : State} (h : ReceiverStep s t) : t.host = s.host := by
  cases h <;> rfl

/-- R112, R116, R163: a move that does not end the `READ` leaves fewer steps: an invocation has a finite budget, and no
transition leads back. -/
theorem ReceiverStep.stepsBeforeDecode_lt {s t : State} (h : ReceiverStep s t) (hi : PositionInv s)
    (hs : s.busy = true) (ht : t.busy = true) : stepsBeforeDecode t < stepsBeforeDecode s := by
  cases h with
  | idle hp => exact absurd hs (not_busy_of_idle hp)
  | setFails | pollFails | pollExpires | frameAccepted | frameRejected => exact absurd ht (not_busy_of_idle rfl)
  | h1Hold hp | h2Hold hp | h1Set hp | h2Set hp | h3Set hp => simp [stepsBeforeDecode, samplerPhase, hp]
  | h3Hold hp => simp [stepsBeforeDecode, invocationsToCome, invocationStepsLeft, samplerPhase, hp]
  | ackLow hp hsub | ackHigh hp hsub | sampleLast hp hsub =>
    simp [stepsBeforeDecode, invocationsToCome, invocationStepsLeft, samplerPhase, hp, hsub]
  | sampleMore hp hsub hx =>
    have hidx : (s.idx + 1#7).toNat = s.idx.toNat + 1 := by bv_omega
    simp [stepsBeforeDecode, invocationsToCome, invocationStepsLeft, samplerPhase, hp, hsub, hidx,
      -BitVec.toNat_add]
    omega
  | pollMisses hp hsub =>
    exact stepsBeforeDecode_lt_of_invocation hp rfl rfl (by simp [invocationStepsLeft, hsub])
  | wait hp hsub =>
    have hcnt := (hi.waitLegal hsub).2
    have hnext : (s.cnt + 1#8).toNat = s.cnt.toNat + 1 := by bv_omega
    refine stepsBeforeDecode_lt_of_invocation hp rfl rfl ?_
    simp only [invocationStepsLeft, hnext, hsub, if_true, reduceCtorEq, if_false]
    omega

/-- R206: a `READ` that has ended. -/
theorem EndsRead.ended {s t : State} (h : EndsRead s t) : t.ended := by
  cases h with
  | raise x u => exact ⟨raise_phase x u, by simp⟩
  | publish u => exact ⟨rfl, rfl⟩

/-- R222: where the host does nothing, the receiver moves. -/
theorem PositionInv.step_of_silent {s : State} (hi : PositionInv s) (hh : s.host = []) :
    ∃ t, step s = .next t ∧ ReceiverStep s t := by
  obtain ⟨t, ht⟩ := nothingStopsTheBlock s hi
  refine ⟨t, ht, ?_⟩
  cases step_machineStep ht with
  | inertWrite _ _ h | accept h | refuse h | hostRead _ h | rst h => simp [hh] at h
  | receiver _ _ hm => rwa [popHost_of_silent hh] at hm

/-- R252: by induction on the steps that are left, whatever the pin answers. -/
theorem PositionInv.ends_within {s : State} (hi : PositionInv s) (hb : s.busy = true) (hh : s.host = []) :
    ∃ k t, k ≤ stepsBeforeDecode s + 1 ∧ runSteps k s = .next t ∧ t.ended := by
  induction hn : stepsBeforeDecode s using Nat.strong_induction_on generalizing s with
  | h n ih =>
    obtain ⟨t, hst, hmove⟩ := hi.step_of_silent hh
    have hone : runSteps 1 s = .next t := by rw [runSteps, hst]; rfl
    rcases hmove.busy_or_endsRead hb with ht | hend
    · have hlt := hmove.stepsBeforeDecode_lt hi hb ht
      obtain ⟨k, v, hk, hrun, hv⟩ := ih _ (hn ▸ hlt) (hmove.positionInv hi) ht (hmove.host.trans hh) rfl
      exact ⟨1 + k, v, by omega, by rw [runSteps_add 1 k hone, hrun], hv⟩
    · exact ⟨1, t, by omega, hone, hend.ended⟩

/-- Settles O57: at most 41908 steps lead to `DECODE` or to an error, and `DECODE` is one more. -/
theorem everyReadEnds : Obligations.EveryReadEnds := by
  unfold Obligations.EveryReadEnds
  intro s hi hb hh
  obtain ⟨k, t, hk, hrun, hend⟩ := hi.ends_within hb hh
  have hle := stepsBeforeDecode_le hb
  exact ⟨k, t, by omega, hrun, hend⟩

end Sys2Proof.Machine
